-- ==== Sys2Proof/Syntax.lean ====
section
/-! DEFINITION. The commands of FSKCORE: one constructor per row of spec/opcode_table.json (spec/30_encoding.md
R91). -/

namespace Sys2Proof

/-- A command. The operand is the unsigned integer of ARG (R92): a number of bits or a frame index, never a bit
pattern. -/
inductive Instr where
  /-- `NOP` (R194). -/
  | nop
  /-- `CHECK` (R195). -/
  | check
  /-- `MOD n` (R115): modulate the first `n` bits of TXMEM. -/
  | mod (n : Nat)
  /-- `XFRM j` (R137): transform frame `j`. -/
  | xfrm (j : Nat)
  /-- `XTRC` (R156): extract the dominant frequency of SPECMEM. -/
  | xtrc
  /-- `ANLZ` (R157): transform and extract every frame. -/
  | anlz
  /-- `DEC` (R176): classify every bit position. -/
  | dec
  /-- `DEMOD` (R177): `ANLZ` then `DEC`. -/
  | demod
  deriving DecidableEq, Repr

end Sys2Proof
end

