-- ==== Sys2Proof/WellFormed.lean ====
section
/-! DEFINITION. Which commands can be written down: the operand fits ARG, 24 bits unsigned (spec/30_encoding.md R90,
R91: "0 to 16777215"). -/

namespace Sys2Proof

/-- The command has a word: its operand, if it takes one, is in 0 to 16777215 (R91). -/
def Instr.wf : Instr → Bool
  | .nop => true
  | .check => true
  | .mod n => decide (n < 2 ^ 24)
  | .xfrm j => decide (j < 2 ^ 24)
  | .xtrc => true
  | .anlz => true
  | .dec => true
  | .demod => true

end Sys2Proof
end

