-- ==== Sys2Proof/Word.lean ====
section
/-! DEFINITION. The word types of FSKCORE (spec/00_scope.md R5: DATA_W = 32, ADDR_W = 21). -/

namespace Sys2Proof

/-- A bus data word, a register, a frequency word, a command word: DATA_W = PHASE_W = 32 bits (R5, R90). -/
abbrev Word := BitVec 32

/-- A bus byte address: ADDR_W = 21 bits (R5, R60). -/
abbrev Addr := BitVec 21

end Sys2Proof
end

