-- ==== Sys2Proof/Decode.lean ====
section
/-! DEFINITION. From command words to commands and back (spec/30_encoding.md R90 to R94). -/

namespace Sys2Proof

/-- Why a word is no command (R93). -/
inductive Illegal where
  /-- OPC is 0x08 to 0xFF. -/
  | opcode (opc : BitVec 8)
  /-- OPC names a command without an operand and ARG is not 0. -/
  | argument (opc : BitVec 8) (arg : BitVec 24)
  deriving DecidableEq, Repr

/-- What the decoder makes of a word: a command, or an illegal word with the reason. -/
inductive Decoded where
  | cmd (i : Instr)
  | illegal (why : Illegal)
  deriving DecidableEq, Repr

/-- OPC, bits 31:24 (R90). -/
def opcOf (c : Word) : BitVec 8 := c.extractLsb' 24 8

/-- ARG, bits 23:0 (R90). -/
def argOf (c : Word) : BitVec 24 := c.extractLsb' 0 24

/-- A command whose ARG must be 0 (R91). -/
def bare (i : Instr) (c : Word) : Decoded :=
  if argOf c = 0 then .cmd i else .illegal (.argument (opcOf c) (argOf c))

/-- The opcode map (R91), total on all `2^32` words (R93). -/
def decode (c : Word) : Decoded :=
  match (opcOf c).toNat with
  | 0x00 => bare .nop c
  | 0x01 => bare .check c
  | 0x02 => .cmd (.mod (argOf c).toNat)
  | 0x03 => .cmd (.xfrm (argOf c).toNat)
  | 0x04 => bare .xtrc c
  | 0x05 => bare .anlz c
  | 0x06 => bare .dec c
  | 0x07 => bare .demod c
  | _ => .illegal (.opcode (opcOf c))

/-- The OPC of each command (R91). -/
def opcode : Instr → BitVec 8
  | .nop => 0x00
  | .check => 0x01
  | .mod _ => 0x02
  | .xfrm _ => 0x03
  | .xtrc => 0x04
  | .anlz => 0x05
  | .dec => 0x06
  | .demod => 0x07

/-- The ARG of each command (R91, R92). -/
def operandField : Instr → BitVec 24
  | .mod n => BitVec.ofNat 24 n
  | .xfrm j => BitVec.ofNat 24 j
  | .nop => 0
  | .check => 0
  | .xtrc => 0
  | .anlz => 0
  | .dec => 0
  | .demod => 0

/-- The word of a well-formed command: OPC in bits 31:24, ARG in bits 23:0 (R90). -/
def encode (i : Instr) : Word := BitVec.ofNat 32 (2 ^ 24 * (opcode i).toNat + (operandField i).toNat)

/-- The command in a table row's bits, `none` for an illegal word. The word's bits above `nbits` are 0; a number that
does not fit one 32-bit word is no command word (R90: "There is one length"). -/
def decodeTableWord (nbits w : Nat) : Option Instr :=
  if w % 2 ^ nbits < 2 ^ 32 then
    match decode (BitVec.ofNat 32 (w % 2 ^ nbits)) with
    | .cmd i => some i
    | .illegal _ => none
  else none

/-- One row of the match-and-mask table (R94). -/
structure MatchRow where
  mnemonic : String
  pattern : Word
  mask : Word
  deriving DecidableEq, Repr

/-- The match-and-mask table, row by row as R94 prints it. -/
def matchTable : List MatchRow :=
  [ ⟨"NOP", 0x00000000, 0xFFFFFFFF⟩
  , ⟨"CHECK", 0x01000000, 0xFFFFFFFF⟩
  , ⟨"MOD", 0x02000000, 0xFF000000⟩
  , ⟨"XFRM", 0x03000000, 0xFF000000⟩
  , ⟨"XTRC", 0x04000000, 0xFFFFFFFF⟩
  , ⟨"ANLZ", 0x05000000, 0xFFFFFFFF⟩
  , ⟨"DEC", 0x06000000, 0xFFFFFFFF⟩
  , ⟨"DEMOD", 0x07000000, 0xFFFFFFFF⟩ ]

/-- The mnemonic of each command (R91). -/
def mnemonicOf : Instr → String
  | .nop => "NOP"
  | .check => "CHECK"
  | .mod _ => "MOD"
  | .xfrm _ => "XFRM"
  | .xtrc => "XTRC"
  | .anlz => "ANLZ"
  | .dec => "DEC"
  | .demod => "DEMOD"

/-- A word matches a row (R94). -/
def MatchRow.hits (r : MatchRow) (c : Word) : Bool := c &&& r.mask == r.pattern

end Sys2Proof
end

