-- ==== Sys2Proof/Machine/Arith.lean ====
section
/-! DEFINITION. The integer primitives of the notation (spec/00_scope.md R6). The floor shift of an integer is Lean's
`>>>` on `Int` (an arithmetic shift), `tdiv` is `Int.tdiv` (toward zero), `div` and `mod` on naturals are Lean's. -/

namespace Sys2Proof.Machine

/-- `ceil_div(a, b) = (a + b - 1) div b` (R6). -/
def ceilDiv (a b : Nat) : Nat := (a + b - 1) / b

/-- `isqrt` bit by bit: the root found so far is `r`, and bits `bits - 1` down to 0 are still to be decided. -/
def isqrtFrom (n : Nat) : Nat → Nat → Nat
  | 0, r => r
  | bits + 1, r =>
    if (r + 2 ^ bits) * (r + 2 ^ bits) ≤ n then isqrtFrom n bits (r + 2 ^ bits) else isqrtFrom n bits r

/-- `isqrt(n)`: the greatest `r` with `r × r ≤ n` (R6). -/
def isqrt (n : Nat) : Nat := isqrtFrom n (Nat.log2 n / 2 + 1) 0

/-- `bitrev_m(n)`: reverses the `m`-bit binary representation of `n` (R6). -/
def bitrev : Nat → Nat → Nat
  | 0, _ => 0
  | m + 1, n => n % 2 * 2 ^ m + bitrev m (n / 2)

end Sys2Proof.Machine
end

