-- ==== Sys2Proof/Config.lean ====
section
/-! DEFINITION. What this realisation of FSKCORE fixes (spec/00_scope.md R5, spec/10_state.md R23, R24) and the free
values the spec leaves open (spec/93_implementation_defined.md U1, U2). -/

namespace Sys2Proof.Config

/-- ROM_AMP (R5): peak value of the sine ROM. -/
def romAmp : Int := 32767

/-- SMP_DEPTH (R5): samples in SMPMEM. -/
def smpDepth : Nat := 65536

/-- BIT_DEPTH (R5): entries in TXMEM and in RXMEM. -/
def bitDepth : Nat := 65536

/-- FRM_DEPTH (R5): entries in FRMMEM. -/
def frmDepth : Nat := 65536

/-- SPEC_DEPTH (R5): entries in SPECMEM, bins 0 to 512. -/
def specDepth : Nat := 513

/-- WLOG2_MIN (R5). -/
def wlog2Min : Nat := 3

/-- WLOG2_MAX (R5). -/
def wlog2Max : Nat := 10

/-- ID_VALUE (R5, R23): ASCII "FSK1". -/
def idValue : Word := 0x46534B31

/-- The constant the CAP register reads (R24). -/
def capValue : Word := 0x3A101010

/-- FREE VALUE (DESIGN CHOICE, log entry 3): the `n`-th word drawn for a read whose value the spec leaves open
(U1: a gated read; U2: a host read of an entry nothing has written). It has no body, so no proof knows a value of
it. -/
opaque freeWord : Nat → Word

end Sys2Proof.Config
end

