-- ==== Sys2Proof/Machine/State.lean ====
section
/-! DEFINITION. The whole state of FSKCORE (spec/10_state.md R20) as plain data, what can stop the model, and the
state after reset (spec/70_reset_and_hazards.md R230). -/

namespace Sys2Proof.Machine

/-- STATUS (R26). Bits 7:5 and 31:16 are reserved, read 0 and hold no storage. -/
structure Status where
  /-- bit 0 -/
  busy : Bool
  /-- bit 1 -/
  done : Bool
  /-- bit 2 -/
  cfgErr : Bool
  /-- bit 3 -/
  incomplete : Bool
  /-- bit 4 -/
  cmdErr : Bool
  /-- bits 15:8 -/
  lastOp : BitVec 8
  deriving DecidableEq, Repr

/-- The ten causes of a ConfigurationError, bits 0 to 9 of CFGCAUSE in this order (R27, R201). -/
structure Causes where
  fc0 : Bool
  fd0 : Bool
  fdge : Bool
  nyq : Bool
  spb0 : Bool
  wlog : Bool
  hop0 : Bool
  winspb : Bool
  band : Bool
  cap : Bool
  deriving DecidableEq, Repr

/-- ESTICKY, bits 0 to 5 in this order (R28). -/
structure Sticky where
  cfgErr : Bool
  incomplete : Bool
  cmdErr : Bool
  fmtErr : Bool
  busyErr : Bool
  addrErr : Bool
  deriving DecidableEq, Repr

/-- CTRL: bit 0 INTERP, bit 1 IE (R29). -/
structure Ctrl where
  interp : Bool
  ie : Bool
  deriving DecidableEq, Repr

/-- The 26 registers of the register file, in the order of their offsets (R22). -/
inductive Reg where
  | id | cap | cmd | status | cfgcause | esticky | ctrl | fcenter | fdev | fmargin | spb | wlog2 | hop | mthresh
  | slen | nfrm | f0 | f1 | phase | toff | peak | peakmag | freq | nbits | errcnt | errpos
  deriving DecidableEq, Repr

/-- The five memories (R40 to R44). -/
inductive Space where
  | specmem | smpmem | txmem | rxmem | frmmem
  deriving DecidableEq, Repr

/-- What a byte address reaches (R61). -/
inductive Target where
  /-- `addr[1:0] ≠ 0` (R64) -/
  | misaligned
  /-- no register and no memory entry (R65) -/
  | unmapped
  | register (r : Reg)
  | entry (sp : Space) (index : Nat)
  deriving DecidableEq, Repr

/-- A memory: the entries something has written, as (index, value) pairs in ONE form, indices strictly rising and
below the memory's depth. An index that is not listed is unwritten and holds no value (R45). The unit is the entry,
the smallest thing the spec addresses (R61, R70; log entry 7). -/
abbrev Memory (w : Nat) := List (Nat × BitVec w)

/-- The form of a memory of the given depth. -/
abbrev Memory.wf {w : Nat} (depth : Nat) (m : Memory w) : Prop :=
  m.Pairwise (fun a b => a.1 < b.1) ∧ ∀ e ∈ m, e.1 < depth

/-- What the two agents and the reset input do next (R4, R60, R230; log entry 1). -/
inductive Turn where
  /-- the host issues `BusRead(addr)` -/
  | read (addr : Addr)
  /-- the host issues `BusWrite(addr, data)` -/
  | write (addr : Addr) (data : Word)
  /-- the reset input is asserted -/
  | reset
  /-- it is CORE's turn: its step if BUSY = 1, nothing otherwise -/
  | core
  deriving DecidableEq, Repr

/-- What a command raised in stages 1 to 3 (R191). -/
inductive Raised where
  | nothing
  /-- ConfigurationError with the causes that held (R203) -/
  | configuration (causes : Causes)
  /-- CommandError (R206) -/
  | command
  deriving DecidableEq, Repr

/-- Why the machine stops. -/
inductive Fault where
  /-- A command read entry `index` of memory `sp`, which nothing has written since power-on or since the last reset (R45,
  U2: "a `fault` of the model"). Raised by the bodies of MOD, XFRM, XTRC, ANLZ, DEC and DEMOD. SAFE: the hardware goes on
  with some value; the model proves nothing of it. -/
  | unwrittenEntry (sp : Space) (index : Nat)
  deriving DecidableEq, Repr

/-- An instruction the model gives no meaning. -/
inductive Refusal where
  /-- Raised by an arm of `exec` whose instruction has no meaning yet; no arm does. SAFE. -/
  | notModelled (mnemonic : String)
  deriving DecidableEq, Repr

/-- The state (R20). Each field names its rule of spec/10_state.md; INVENTORY.md lists them with reset values. -/
structure State where
  /-- R26 -/
  status : Status
  /-- R27 -/
  cfgcause : Causes
  /-- R28 -/
  esticky : Sticky
  /-- R29 -/
  ctrl : Ctrl
  /-- R30 -/
  fcenter : Word
  /-- R30 -/
  fdev : Word
  /-- R30 -/
  fmargin : Word
  /-- R31 -/
  spb : Word
  /-- R32: bits 3:0 are stored -/
  wlog2 : BitVec 4
  /-- R32 -/
  hop : Word
  /-- R34 -/
  mthresh : Word
  /-- R35 -/
  slen : Word
  /-- R35 -/
  nfrm : Word
  /-- R36 -/
  phase : Word
  /-- R37 -/
  toff : Word
  /-- R37: bits 9:0 hold the bin -/
  peak : BitVec 10
  /-- R37 -/
  peakmag : Word
  /-- R37: bit 31 VALID, bits 30:0 F -/
  freq : Word
  /-- R38 -/
  nbits : Word
  /-- R38 -/
  errcnt : Word
  /-- R38 -/
  errpos : Word
  /-- R39, hidden -/
  cmdlatch : Word
  /-- R40 -/
  smpmem : Memory 16
  /-- R41 -/
  txmem : Memory 1
  /-- R42: bit 0 BIT, bit 1 ERR -/
  rxmem : Memory 2
  /-- R43: bit 31 VALID, bits 30:0 F -/
  frmmem : Memory 32
  /-- R44 -/
  specmem : Memory 32
  /-- the model's own (log entry 1): the turns to come, next first -/
  turns : List Turn
  /-- the model's own (log entry 2): the word the host's latest read returned -/
  rdata : Option Word
  /-- the model's own (log entry 3): how many free values have been drawn -/
  draws : Nat
  deriving DecidableEq, Repr

/-- No cause. -/
def Causes.none : Causes := ⟨false, false, false, false, false, false, false, false, false, false⟩

/-- No error event since the host last cleared ESTICKY. -/
def Sticky.clear : Sticky := ⟨false, false, false, false, false, false⟩

/-- The machine right after reset (R230 with the reset column of R22): idle, parameters at the documented defaults for
44100 Hz, memories unwritten (R45). CMDLATCH is 0 (DESIGN CHOICE, log entry 6) and the model's own fields are empty
(log entries 1 to 3). -/
def State.reset : State :=
  { status := ⟨false, false, false, false, false, 0x00⟩
    cfgcause := Causes.none
    esticky := Sticky.clear
    ctrl := ⟨true, false⟩
    fcenter := 0x3A0CC55F
    fdev := 0x02E709DE
    fmargin := 0x02E709DE
    spb := 0x000001B9
    wlog2 := 0x8
    hop := 0x00000040
    mthresh := 0x00000001
    slen := 0x00000000
    nfrm := 0x00000000
    phase := 0x00000000
    toff := 0x00000000
    peak := 0
    peakmag := 0x00000000
    freq := 0x00000000
    nbits := 0x00000000
    errcnt := 0x00000000
    errpos := 0xFFFFFFFF
    cmdlatch := 0x00000000
    smpmem := []
    txmem := []
    rxmem := []
    frmmem := []
    specmem := []
    turns := []
    rdata := none
    draws := 0 }

end Sys2Proof.Machine
end

