-- ==== Sys2Proof/Machine/Ops.lean ====
section
/-! DEFINITION. The named operations over memories and registers: reading and writing entries, acceptance of a command
(spec/20_memory.md R75), completion with or without an error (spec/44_control.md R196, the counterpart of taking an
exception: spec/60_exceptions.md R211), the host's acknowledgement (R212, the counterpart of returning from one), and
the sticky flags of the bus. -/

namespace Sys2Proof.Machine

/-! ### Memories -/

/-- The value of entry `i`; none where nothing has written it (R45). -/
def Memory.read {w : Nat} : Memory w → Nat → Option (BitVec w)
  | [], _ => none
  | (j, v) :: rest, i => if i = j then some v else Memory.read rest i

/-- `MEM[i] <- v`, keeping the indices rising. -/
def Memory.write {w : Nat} : Memory w → Nat → BitVec w → Memory w
  | [], i, v => [(i, v)]
  | (j, u) :: rest, i, v =>
    if i < j then (i, v) :: (j, u) :: rest
    else if i = j then (i, v) :: rest
    else (j, u) :: Memory.write rest i v

/-- The values, numbered from `start`. -/
def numbered {w : Nat} : Nat → List (BitVec w) → Memory w
  | _, [] => []
  | start, v :: vs => (start, v) :: numbered (start + 1) vs

/-- Entries `n` and above; those below become unwritten (R231). -/
def Memory.dropBelow {w : Nat} (m : Memory w) (n : Nat) : Memory w := m.filter (fun e => n ≤ e.1)

/-- `MEM[0 .. L-1] <- vs` for a list of length `L`; entries `L` and above keep their values (R80: "Entries outside the
ranges shown are not touched"). Every command writes its memories from entry 0 up. -/
def Memory.storeFromZero {w : Nat} (m : Memory w) (vs : List (BitVec w)) : Memory w :=
  numbered 0 vs ++ Memory.dropBelow m vs.length

/-- The entries of `lo .. hi - 1` alone: what a run of reads has to look through. -/
def Memory.between {w : Nat} (m : Memory w) (lo hi : Nat) : Memory w := m.filter (fun e => lo ≤ e.1 ∧ e.1 < hi)

/-- A command's read of one entry: a fault where nothing has written it (R45, U2; log entry 4). -/
def fetch {w : Nat} (sp : Space) (m : Memory w) (i : Nat) : Except Fault (BitVec w) :=
  match Memory.read m i with
  | some v => .ok v
  | none => .error (.unwrittenEntry sp i)

/-- A command's reads of the entries listed, in order. -/
def fetchAll {w : Nat} (sp : Space) (m : Memory w) : List Nat → Except Fault (List (BitVec w))
  | [] => .ok []
  | i :: is =>
    match fetch sp m i with
    | .error f => .error f
    | .ok v =>
      match fetchAll sp m is with
      | .error f => .error f
      | .ok vs => .ok (v :: vs)

/-- A command's reads of entries `start .. start + len - 1`, in order. -/
def fetchRun {w : Nat} (sp : Space) (m : Memory w) (start len : Nat) : Except Fault (List (BitVec w)) :=
  fetchAll sp (Memory.between m start (start + len)) (List.range' start len)

/-! ### Acceptance, completion, acknowledgement -/

/-- Acceptance of command word `c` (R75). -/
def State.accept (c : Word) (s : State) : State :=
  { s with
    cmdlatch := c
    status := { busy := true, done := false, cfgErr := false, incomplete := false, cmdErr := false,
                lastOp := c.extractLsb' 24 8 }
    cfgcause := Causes.none }

/-- ConfigurationError was raised. -/
def Raised.isConfiguration : Raised → Bool
  | .nothing => false
  | .configuration _ => true
  | .command => false

/-- CommandError was raised. -/
def Raised.isCommand : Raised → Bool
  | .nothing => false
  | .configuration _ => false
  | .command => true

/-- The causes raised, none unless ConfigurationError was raised (R196). -/
def Raised.causes : Raised → Causes
  | .nothing => Causes.none
  | .configuration c => c
  | .command => Causes.none

/-- Completion of the CORE step (R196), the one place where a command's errors are recorded (R203, R204, R206):
`raised` is what stages 1 to 3 raised, `incomplete` whether the body recorded IncompleteDecodeError. Nothing else
changes and control goes nowhere (R211). -/
def State.complete (raised : Raised) (incomplete : Bool) (s : State) : State :=
  { s with
    status := { s.status with
      busy := false
      done := true
      cfgErr := raised.isConfiguration
      incomplete := incomplete
      cmdErr := raised.isCommand }
    cfgcause := raised.causes
    esticky := { s.esticky with
      cfgErr := s.esticky.cfgErr || raised.isConfiguration
      incomplete := s.esticky.incomplete || incomplete
      cmdErr := s.esticky.cmdErr || raised.isCommand } }

/-- A host write to STATUS: bit 1 clears DONE, every other bit is ignored (R26, R63 step 5, R212). -/
def State.acknowledgeDone (data : Word) (s : State) : State :=
  { s with status := { s.status with done := s.status.done && !data.getLsbD 1 } }

/-- A host write to ESTICKY clears exactly the bits written as 1 (R28, R63 step 6, R212). -/
def State.clearSticky (data : Word) (s : State) : State :=
  { s with esticky :=
    { cfgErr := s.esticky.cfgErr && !data.getLsbD 0
      incomplete := s.esticky.incomplete && !data.getLsbD 1
      cmdErr := s.esticky.cmdErr && !data.getLsbD 2
      fmtErr := s.esticky.fmtErr && !data.getLsbD 3
      busyErr := s.esticky.busyErr && !data.getLsbD 4
      addrErr := s.esticky.addrErr && !data.getLsbD 5 } }

/-! ### The three errors of a bus transaction -/

/-- InputFormatError (R205). -/
def State.raiseFormat (s : State) : State := { s with esticky := { s.esticky with fmtErr := true } }

/-- BusyViolation (R207). -/
def State.raiseBusy (s : State) : State := { s with esticky := { s.esticky with busyErr := true } }

/-- AddressError (R208). -/
def State.raiseAddress (s : State) : State := { s with esticky := { s.esticky with addrErr := true } }

/-! ### What a read returns -/

/-- The host's read returns `v`. -/
def State.answer (v : Word) (s : State) : State := { s with rdata := some v }

/-- The host's read returns a free value, shaped by `shape` (U1, U2; log entry 3). -/
def State.answerFree (shape : Word → Word) (s : State) : State :=
  { s with rdata := some (shape (Config.freeWord s.draws)), draws := s.draws + 1 }

end Sys2Proof.Machine
end

