-- ==== Sys2Proof/Machine/Operands.lean ====
section
/-! DEFINITION. The operands of the commands: what each reads out of the parameter registers before its body runs
(spec/10_state.md R33; spec/41_spectral_transform.md R131; spec/42_frequency_extractor.md R151;
spec/43_decoder.md R171, R172). -/

namespace Sys2Proof.Machine

/-- `F0 = (FCENTER - FDEV) mod 2^32`, the tone of bit 0 (R33). -/
def toneZero (s : State) : Word := s.fcenter - s.fdev

/-- `F1 = (FCENTER + FDEV) mod 2^32`, the tone of bit 1 (R33). -/
def toneOne (s : State) : Word := s.fcenter + s.fdev

/-- The tone selector: `f(b) = F1 if b = 1 else F0` (R112). -/
def toneWord (s : State) (b : BitVec 1) : Word := if b = 1 then toneOne s else toneZero s

/-- `m = WLOG2` as a number. -/
def windowLog (s : State) : Nat := s.wlog2.toNat

/-- `W = 2^WLOG2` (R32). -/
def windowSize (s : State) : Nat := 2 ^ windowLog s

/-- The sample offset of frame `j` (R131). -/
def frameOffset (s : State) (j : Nat) : Nat := j * s.hop.toNat

/-- The window-centre timestamp of frame `j` (R131, R172). -/
def frameCentre (s : State) (j : Nat) : Nat := frameOffset s j + windowSize s / 2

/-- `J`, the number of frames of the buffer (R131, for `HOP ≥ 1`). -/
def frameCount (s : State) : Nat :=
  if s.slen.toNat < windowSize s then 0 else (s.slen.toNat - windowSize s) / s.hop.toNat + 1

/-- `NB = ceil_div(SLEN, SPB)`, the number of bit positions (R171). -/
def bitCount (s : State) : Nat := ceilDiv s.slen.toNat s.spb.toNat

/-- `B = 2^(32 - m)`, the width of a bin in frequency-word units (R151). -/
def binWidth (s : State) : Nat := 2 ^ (32 - windowLog s)

/-- `lo = max(0, FCENTER - FDEV - FMARGIN)` (R151). -/
def bandLow (s : State) : Nat :=
  (max 0 ((s.fcenter.toNat : Int) - s.fdev.toNat - s.fmargin.toNat)).toNat

/-- `hi = FCENTER + FDEV + FMARGIN`, unbounded (R151). -/
def bandHigh (s : State) : Nat := s.fcenter.toNat + s.fdev.toNat + s.fmargin.toNat

/-- `kLo`, the first bin whose centre is at or above `lo`, never bin 0 (R151). -/
def binLow (s : State) : Nat := max 1 ((bandLow s + binWidth s - 1) >>> (32 - windowLog s))

/-- `kHi`, the last bin whose centre is at or below `hi`, never the Nyquist bin (R151). -/
def binHigh (s : State) : Nat := min (windowSize s / 2 - 1) (bandHigh s >>> (32 - windowLog s))

end Sys2Proof.Machine
end

