-- ==== Sys2Proof/Machine/Flags.lean ====
section
/-! DEFINITION. Every flag computation: the flag registers as words (spec/10_state.md R26 to R29), the nine
configuration predicates, the relevant sets and capacity conditions, and the stages before a command's body
(spec/44_control.md R191 to R193). -/

namespace Sys2Proof.Machine

/-! ### The flag registers as the host reads them -/

/-- The number whose bit `n` is the `n`-th flag of the list, bit 0 first (R6: bit 0 is the least significant). -/
def flagBits : List Bool → Nat
  | [] => 0
  | b :: bs => b.toNat + 2 * flagBits bs

/-- STATUS as a word (R26). -/
def Status.word (st : Status) : Word :=
  BitVec.ofNat 32 (flagBits [st.busy, st.done, st.cfgErr, st.incomplete, st.cmdErr] + 2 ^ 8 * st.lastOp.toNat)

/-- CFGCAUSE as a word (R27). -/
def Causes.word (c : Causes) : Word :=
  BitVec.ofNat 32 (flagBits [c.fc0, c.fd0, c.fdge, c.nyq, c.spb0, c.wlog, c.hop0, c.winspb, c.band, c.cap])

/-- ESTICKY as a word (R28). -/
def Sticky.word (e : Sticky) : Word :=
  BitVec.ofNat 32 (flagBits [e.cfgErr, e.incomplete, e.cmdErr, e.fmtErr, e.busyErr, e.addrErr])

/-- CTRL as a word (R29). -/
def Ctrl.word (c : Ctrl) : Word := BitVec.ofNat 32 (flagBits [c.interp, c.ie])

/-- The interrupt output: `irq = CTRL.IE and STATUS.DONE` (R210). -/
def irq (s : State) : Bool := s.ctrl.ie && s.status.done

/-! ### Configuration causes -/

/-- Some cause holds. -/
def Causes.any (c : Causes) : Bool :=
  c.fc0 || c.fd0 || c.fdge || c.nyq || c.spb0 || c.wlog || c.hop0 || c.winspb || c.band || c.cap

/-- The causes in both sets. -/
def Causes.inter (a b : Causes) : Causes :=
  { fc0 := a.fc0 && b.fc0
    fd0 := a.fd0 && b.fd0
    fdge := a.fdge && b.fdge
    nyq := a.nyq && b.nyq
    spb0 := a.spb0 && b.spb0
    wlog := a.wlog && b.wlog
    hop0 := a.hop0 && b.hop0
    winspb := a.winspb && b.winspb
    band := a.band && b.band
    cap := a.cap && b.cap }

/-- `WLOG2 < 3 or WLOG2 > 10` (R192). -/
def windowIllegal (s : State) : Bool :=
  decide (windowLog s < Config.wlog2Min ∨ Config.wlog2Max < windowLog s)

/-- `CfgCauses()`: the nine predicates, in unbounded integers (R192). CAP is no predicate of the registers alone
(R193) and is false here. -/
def cfgCauses (s : State) : Causes :=
  { fc0 := decide (s.fcenter.toNat = 0)
    fd0 := decide (s.fdev.toNat = 0)
    fdge := decide (s.fcenter.toNat ≤ s.fdev.toNat)
    nyq := decide (2 ^ 31 ≤ s.fcenter.toNat + s.fdev.toNat)
    spb0 := decide (s.spb.toNat = 0)
    wlog := windowIllegal s
    hop0 := decide (s.hop.toNat = 0)
    winspb := !windowIllegal s && decide (s.spb.toNat < windowSize s)
    band := !windowIllegal s && decide (binHigh s < binLow s)
    cap := false }

/-- All nine causes. -/
def allNine : Causes := ⟨true, true, true, true, true, true, true, true, true, false⟩

/-- `RelevantSet` (R193). -/
def relevantSet : Instr → Causes
  | .nop => Causes.none
  | .check => allNine
  | .mod _ => { Causes.none with fc0 := true, fd0 := true, fdge := true, nyq := true, spb0 := true }
  | .xfrm _ => { Causes.none with wlog := true, hop0 := true }
  | .xtrc => { Causes.none with fc0 := true, fd0 := true, fdge := true, nyq := true, wlog := true, band := true }
  | .anlz => allNine
  | .dec => allNine
  | .demod => allNine

/-- `CapCondition` (R193), without wrap. -/
def capCondition : Instr → State → Bool
  | .nop, _ => false
  | .check, s => decide (Config.smpDepth < s.slen.toNat ∨ Config.frmDepth < s.nfrm.toNat)
  | .mod n, s => decide (Config.bitDepth < n ∨ Config.smpDepth < n * s.spb.toNat)
  | .xfrm _, s => decide (Config.smpDepth < s.slen.toNat)
  | .xtrc, _ => false
  | .anlz, s => decide (Config.smpDepth < s.slen.toNat)
  | .dec, s => decide (Config.smpDepth < s.slen.toNat ∨ Config.frmDepth < s.nfrm.toNat)
  | .demod, s => decide (Config.smpDepth < s.slen.toNat)

/-- The causes a command checks that hold (R191 stage 2). -/
def heldCauses (i : Instr) (s : State) : Causes :=
  { Causes.inter (cfgCauses s) (relevantSet i) with cap := capCondition i s }

/-- Stage 3: `XFRM j` with `j ≥ J` (R132, R191). -/
def operandIllegal : Instr → State → Bool
  | .nop, _ => false
  | .check, _ => false
  | .mod _, _ => false
  | .xfrm j, s => decide (frameCount s ≤ j)
  | .xtrc, _ => false
  | .anlz, _ => false
  | .dec, _ => false
  | .demod, _ => false

/-- What stages 2 and 3 raise, in that order (R191, R209). -/
def judge (i : Instr) (s : State) : Raised :=
  if (heldCauses i s).any then .configuration (heldCauses i s)
  else if operandIllegal i s then .command
  else .nothing

/-- Stages 2 to 4 and completion (R191, R196): where something is raised the body does not run and only the completion
is written; otherwise the body runs and completion records whether it left bit positions incomplete. `decodes` says
that the body is the one of DEC or DEMOD. -/
def runCommand (i : Instr) (decodes : Bool) (body : State → Except Fault State) (s : State) :
    Host.Outcome State Fault Refusal :=
  match judge i s with
  | .nothing =>
    match body s with
    | .error f => .fault f
    | .ok t => .next (t.complete .nothing (decodes && decide (0 < t.errcnt.toNat)))
  | .configuration c => .next (s.complete (.configuration c) false)
  | .command => .next (s.complete .command false)

end Sys2Proof.Machine
end

