-- ==== Sys2Proof/Machine/Bus.lean ====
section
/-! DEFINITION. The HOST agent's two transactions (spec/20_memory.md R60 to R69). -/

namespace Sys2Proof.Machine

/-- The register file in the order of its offsets 0x00, 0x04, … 0x64 (R22). -/
def registerFile : List Reg :=
  [.id, .cap, .cmd, .status, .cfgcause, .esticky, .ctrl, .fcenter] ++
  [.fdev, .fmargin, .spb, .wlog2, .hop, .mthresh, .slen, .nfrm] ++
  [.f0, .f1, .phase, .toff, .peak, .peakmag, .freq, .nbits, .errcnt, .errpos]

/-- The register at word offset `n`, if there is one (R22; offsets 0x68 up hold none). -/
def registerAt (n : Nat) : Target :=
  match registerFile[n]? with
  | some r => .register r
  | none => .unmapped

/-- What a byte address reaches, alignment judged first (R61, R64, R65). -/
def targetOf (addr : Addr) : Target :=
  if addr.toNat % 4 ≠ 0 then .misaligned
  else if addr.toNat < 0x001000 then registerAt (addr.toNat / 4)
  else if addr.toNat < 0x001804 then .entry .specmem ((addr.toNat - 0x001000) / 4)
  else if addr.toNat < 0x040000 then .unmapped
  else if addr.toNat < 0x080000 then .entry .smpmem ((addr.toNat - 0x040000) / 4)
  else if addr.toNat < 0x0C0000 then .entry .txmem ((addr.toNat - 0x080000) / 4)
  else if addr.toNat < 0x100000 then .entry .rxmem ((addr.toNat - 0x0C0000) / 4)
  else if addr.toNat < 0x140000 then .entry .frmmem ((addr.toNat - 0x100000) / 4)
  else .unmapped

/-- The value of a register as the host reads it (R23 to R38; R62 step 5). -/
def readRegister (s : State) : Reg → Word
  | .id => Config.idValue
  | .cap => Config.capValue
  | .cmd => 0
  | .status => s.status.word
  | .cfgcause => s.cfgcause.word
  | .esticky => s.esticky.word
  | .ctrl => s.ctrl.word
  | .fcenter => s.fcenter
  | .fdev => s.fdev
  | .fmargin => s.fmargin
  | .spb => s.spb
  | .wlog2 => s.wlog2.setWidth 32
  | .hop => s.hop
  | .mthresh => s.mthresh
  | .slen => s.slen
  | .nfrm => s.nfrm
  | .f0 => toneZero s
  | .f1 => toneOne s
  | .phase => s.phase
  | .toff => s.toff
  | .peak => s.peak.setWidth 32
  | .peakmag => s.peakmag
  | .freq => s.freq
  | .nbits => s.nbits
  | .errcnt => s.errcnt
  | .errpos => s.errpos

/-- The effect of a host write to a register (R63 steps 4 to 7): acceptance, the two write-one-to-clear registers, the
writable registers masked to the bits they implement; a read-only register ignores the write. -/
def writeRegister (data : Word) (s : State) : Reg → State
  | .cmd => s.accept data
  | .status => s.acknowledgeDone data
  | .esticky => s.clearSticky data
  | .ctrl => { s with ctrl := { interp := data.getLsbD 0, ie := data.getLsbD 1 } }
  | .fcenter => { s with fcenter := data }
  | .fdev => { s with fdev := data }
  | .fmargin => { s with fmargin := data }
  | .spb => { s with spb := data }
  | .wlog2 => { s with wlog2 := data.setWidth 4 }
  | .hop => { s with hop := data }
  | .mthresh => { s with mthresh := data }
  | .slen => { s with slen := data }
  | .nfrm => { s with nfrm := data }
  | .id => s
  | .cap => s
  | .cfgcause => s
  | .f0 => s
  | .f1 => s
  | .phase => s
  | .toff => s
  | .peak => s
  | .peakmag => s
  | .freq => s
  | .nbits => s
  | .errcnt => s
  | .errpos => s

/-- A word as an entry of a memory shows it to the host: the stored width, sign-extended in SMPMEM and zero-extended
elsewhere (R62 step 6). -/
def entryShape : Space → Word → Word
  | .specmem, v => v
  | .smpmem, v => (v.setWidth 16).signExtend 32
  | .txmem, v => (v.setWidth 1).setWidth 32
  | .rxmem, v => (v.setWidth 2).setWidth 32
  | .frmmem, v => v

/-- The value of an entry as the host reads it; none where nothing has written it (R62 step 6, R45). -/
def readEntry (s : State) (sp : Space) (i : Nat) : Option Word :=
  match sp with
  | .specmem => Memory.read s.specmem i
  | .smpmem => (Memory.read s.smpmem i).map (fun v => v.signExtend 32)
  | .txmem => (Memory.read s.txmem i).map (fun v => v.setWidth 32)
  | .rxmem => (Memory.read s.rxmem i).map (fun v => v.setWidth 32)
  | .frmmem => Memory.read s.frmmem i

/-- The effect of a host write to an entry: SPECMEM and FRMMEM store the word, SMPMEM and TXMEM check it, RXMEM is read
only (R63 steps 8 to 10, R68, R69). -/
def writeEntry (data : Word) (s : State) (sp : Space) (i : Nat) : State :=
  match sp with
  | .specmem => { s with specmem := Memory.write s.specmem i data }
  | .frmmem => { s with frmmem := Memory.write s.frmmem i data }
  | .smpmem =>
    if (data.setWidth 16).signExtend 32 = data then
      { s with smpmem := Memory.write s.smpmem i (data.setWidth 16) }
    else s.raiseFormat
  | .txmem =>
    if data = 0 ∨ data = 1 then { s with txmem := Memory.write s.txmem i (data.setWidth 1) } else s.raiseFormat
  | .rxmem => s

/-- A gated read: a free value and BUSYERR (R62 step 4, R66, U1). -/
def gatedRead (s : State) : State := (s.raiseBusy).answerFree id

/-- The registers a read serves whatever BUSY is (R62 step 3). -/
def servedWhileBusy : Reg → Bool
  | .status => true
  | .id => true
  | .cap => true
  | .cmd | .cfgcause | .esticky | .ctrl | .fcenter | .fdev | .fmargin | .spb | .wlog2 | .hop | .mthresh | .slen
  | .nfrm | .f0 | .f1 | .phase | .toff | .peak | .peakmag | .freq | .nbits | .errcnt | .errpos => false

/-- `BusRead(addr)`, decided in the order of R62; the word returned is left in `rdata`. -/
def busRead (addr : Addr) (s : State) : State :=
  match targetOf addr with
  | .misaligned => s.raiseAddress.answer 0
  | .unmapped => s.raiseAddress.answer 0
  | .register r =>
    if servedWhileBusy r then s.answer (readRegister s r)
    else if s.status.busy then gatedRead s
    else s.answer (readRegister s r)
  | .entry sp i =>
    if s.status.busy then gatedRead s
    else
      match readEntry s sp i with
      | some v => s.answer v
      | none => s.answerFree (entryShape sp)

/-- `BusWrite(addr, data)`, decided in the order of R63. -/
def busWrite (addr : Addr) (data : Word) (s : State) : State :=
  match targetOf addr with
  | .misaligned => s.raiseAddress
  | .unmapped => s.raiseAddress
  | .register r => if s.status.busy then s.raiseBusy else writeRegister data s r
  | .entry sp i => if s.status.busy then s.raiseBusy else writeEntry data s sp i

end Sys2Proof.Machine
end

