-- ==== Sys2Proof/Machine/Control.lean ====
section
/-! DEFINITION. The housekeeping commands NOP and CHECK (spec/44_control.md R194, R195) and the end of an illegal
word (R191 stage 1). -/

namespace Sys2Proof.Machine

/-- `NOP` (R194): completion only. -/
def execNop (s : State) : Host.Outcome State Fault Refusal := runCommand .nop false .ok s

/-- `CHECK` (R195): stages 1 and 2 and an empty body. -/
def execCheck (s : State) : Host.Outcome State Fault Refusal := runCommand .check false .ok s

/-- An illegal word raises CommandError and changes nothing else (R93, R191 stage 1, R206). -/
def execIllegal (s : State) : Host.Outcome State Fault Refusal := .next (s.complete .command false)

end Sys2Proof.Machine
end

