-- ==== Sys2Proof/Machine/Spectral.lean ====
section
/-! DEFINITION. The spectral transform stage: command XFRM (spec/41_spectral_transform.md R130 to R137). The arrays
`re` and `im` are one list of pairs; the butterflies of one stage touch disjoint pairs (R135), so a stage is written
block by block (log entry 11). -/

namespace Sys2Proof.Machine

/-- `HANN_W[n] = (32767 - COS[n × 2^(10 - m)]) >> 1`, `W = 2^m` (R133). -/
def hann (m n : Nat) : Int := (Config.romAmp - cosRom (n * 2 ^ (10 - m))) >>> 1

/-- `v[n] = (x[n] × HANN_W[n]) >> 15`, for the samples from `n` on (R134). -/
def windowFrom (m : Nat) : Nat → List Int → List Int
  | _, [] => []
  | n, x :: xs => (x * hann m n) >>> 15 :: windowFrom m (n + 1) xs

/-- The elements at even places. -/
def evens {α : Type} : List α → List α
  | [] => []
  | [x] => [x]
  | x :: _ :: xs => x :: evens xs

/-- The elements at odd places. -/
def odds {α : Type} : List α → List α
  | [] => []
  | [_] => []
  | _ :: y :: xs => y :: odds xs

/-- The bit-reversed order of `2^m` elements: element `n` goes to place `bitrev_m(n)` (R135). The top bit of the
place is the lowest bit of `n`, so the even elements fill the first half, each half in its own reversed order. -/
def reversedOrder {α : Type} : Nat → List α → List α
  | 0, xs => xs
  | m + 1, xs => reversedOrder m (evens xs) ++ reversedOrder m (odds xs)

/-- `(wr, wi)` of butterfly `k` in stage `s`: `COS[t]` and `-SIN[t]` at `t = k × 2^(10 - s)` (R135). -/
def twiddle (s k : Nat) : Int × Int := (cosRom (k * 2 ^ (10 - s)), -sinRom (k * 2 ^ (10 - s)))

/-- `(tr, ti)`: the lower element times the twiddle, one floor shift of 15 per component (R135). -/
def twiddled (w b : Int × Int) : Int × Int :=
  ((b.1 * w.1 - b.2 * w.2) >>> 15, (b.1 * w.2 + b.2 * w.1) >>> 15)

/-- Butterflies `k`, `k + 1`, … of a block of stage `s` over its two halves: the new halves (R135). -/
def butterflies (s : Nat) : Nat → List (Int × Int) → List (Int × Int) → List (Int × Int) × List (Int × Int)
  | k, a :: as, b :: bs =>
    let t := twiddled (twiddle s k) b
    let rest := butterflies s (k + 1) as bs
    ((a.1 + t.1, a.2 + t.2) :: rest.1, (a.1 - t.1, a.2 - t.2) :: rest.2)
  | _, [], _ => ([], [])
  | _, _ :: _, [] => ([], [])

/-- One block of `2^s` elements (R135). -/
def fftBlock (s : Nat) (xs : List (Int × Int)) : List (Int × Int) :=
  let halves := butterflies s 0 (xs.take (2 ^ (s - 1))) (xs.drop (2 ^ (s - 1)))
  halves.1 ++ halves.2

/-- Stage `s` over `blocks` blocks, from base 0 up (R135). -/
def fftStage (s : Nat) : Nat → List (Int × Int) → List (Int × Int)
  | 0, _ => []
  | blocks + 1, xs => fftBlock s (xs.take (2 ^ s)) ++ fftStage s blocks (xs.drop (2 ^ s))

/-- Stages `s + 1` to `s + count` of a transform of `2^m` elements (R135). -/
def fftStages (m : Nat) : Nat → Nat → List (Int × Int) → List (Int × Int)
  | 0, _, xs => xs
  | count + 1, s, xs => fftStages m count (s + 1) (fftStage (s + 1) (2 ^ (m - (s + 1))) xs)

/-- The load in bit-reversed order (R135). -/
def fftLoad (m : Nat) (v : List Int) : List (Int × Int) := reversedOrder m (v.map (fun x => (x, 0)))

/-- The transform of `2^m` windowed samples: load, then stages 1 to `m` (R135). -/
def fft (m : Nat) (v : List Int) : List (Int × Int) := fftStages m m 0 (fftLoad m v)

/-- `isqrt(re^2 + im^2)` (R136). -/
def magnitude (z : Int × Int) : Nat := isqrt (z.1 * z.1 + z.2 * z.2).toNat

/-- The spectrum of one window of samples: `MAG[0 .. W/2]` (R133 to R136). -/
def spectrum (m : Nat) (xs : List Int) : List Nat :=
  ((fft m (windowFrom m 0 xs)).take (2 ^ m / 2 + 1)).map magnitude

/-- The body of `XFRM j` (R137). -/
def xfrmBody (j : Nat) (s : State) : Except Fault State :=
  match fetchRun .smpmem s.smpmem (frameOffset s j) (windowSize s) with
  | .error f => .error f
  | .ok xs =>
    .ok { s with
      specmem := Memory.storeFromZero s.specmem ((spectrum (windowLog s) (xs.map BitVec.toInt)).map (BitVec.ofNat 32))
      toff := BitVec.ofNat 32 (frameOffset s j) }

/-- `XFRM j` (R137). -/
def execXfrm (j : Nat) (s : State) : Host.Outcome State Fault Refusal := runCommand (.xfrm j) false (xfrmBody j) s

end Sys2Proof.Machine
end

