-- ==== Sys2Proof/Machine/Extractor.lean ====
section
/-! DEFINITION. The dominant-frequency extractor: commands XTRC and ANLZ (spec/42_frequency_extractor.md R150 to
R158). -/

namespace Sys2Proof.Machine

/-- A left-to-right scan that moves only to a greater magnitude: `best` is the bin found so far and `top` its
magnitude, `k` the bin of the first magnitude listed (R152). -/
def peakScan : Nat → Nat → Nat → List Nat → Nat
  | best, _, _, [] => best
  | best, top, k, x :: xs => if top < x then peakScan k x (k + 1) xs else peakScan best top (k + 1) xs

/-- The least bin, from `kLo` on, at which the magnitudes listed are greatest (R152). -/
def peakBin (kLo : Nat) : List Nat → Nat
  | [] => kLo
  | x :: xs => peakScan kLo x (kLo + 1) xs

/-- The parabolic discriminator's `delta` for `a, b, c` at the bins around the peak of a `2^m`-point spectrum, in
unbounded integers (R153), with the refinement switched on. -/
def parabola (m : Nat) (a b c : Int) : Int :=
  if a ≤ b ∧ c ≤ b ∧ 0 < 2 * b - a - c then Int.tdiv ((c - a) * 2 ^ (31 - m)) (2 * b - a - c) else 0

/-- `delta` at bin `k` (R153). With `CTRL.INTERP = 0` it is 0 whatever the neighbours hold, and they are not read
(log entry 5). -/
def refinement (k : Nat) (s : State) : Except Fault Int :=
  if s.ctrl.interp then
    match fetchAll .specmem s.specmem [k - 1, k, k + 1] with
    | .error f => .error f
    | .ok mags =>
      .ok (parabola (windowLog s) ((mags.getD 0 0).toNat : Int) ((mags.getD 1 0).toNat : Int)
        ((mags.getD 2 0).toNat : Int))
  else .ok 0

/-- `{VALID, F}` (R37, R43, R154, R155). -/
def frameWord (valid : Bool) (f : Int) : Word :=
  BitVec.ofNat 32 (2 ^ 31 * valid.toNat + (BitVec.ofInt 31 f).toNat)

/-- The body of `XTRC` (R156). -/
def xtrcBody (s : State) : Except Fault State :=
  match fetchRun .specmem s.specmem (binLow s) (binHigh s + 1 - binLow s) with
  | .error f => .error f
  | .ok mags =>
    let k := peakBin (binLow s) (mags.map BitVec.toNat)
    let top := mags.getD (k - binLow s) 0
    match refinement k s with
    | .error f => .error f
    | .ok delta =>
      .ok { s with
        peak := BitVec.ofNat 10 k
        peakmag := top
        freq := frameWord (decide (s.mthresh.toNat ≤ top.toNat)) (k * 2 ^ (32 - windowLog s) + delta) }

/-- `XTRC` (R156). -/
def execXtrc (s : State) : Host.Outcome State Fault Refusal := runCommand .xtrc false xtrcBody s

/-- One pass of the loop of ANLZ: the bodies of `XFRM j` and `XTRC`, then `FRMMEM[j] <- FREQ` (R157). -/
def analyseFrame (j : Nat) (s : State) : Except Fault State :=
  match xfrmBody j s with
  | .error f => .error f
  | .ok t =>
    match xtrcBody t with
    | .error f => .error f
    | .ok u => .ok { u with frmmem := Memory.write u.frmmem j u.freq }

/-- Frames `j` to `j + count - 1`, in order (R157). -/
def analyseFrames : Nat → Nat → State → Except Fault State
  | 0, _, s => .ok s
  | count + 1, j, s =>
    match analyseFrame j s with
    | .error f => .error f
    | .ok t => analyseFrames count (j + 1) t

/-- The body of `ANLZ` (R157). -/
def anlzBody (s : State) : Except Fault State :=
  match analyseFrames (frameCount s) 0 s with
  | .error f => .error f
  | .ok t => .ok { t with nfrm := BitVec.ofNat 32 (frameCount s) }

/-- `ANLZ` (R157). -/
def execAnlz (s : State) : Host.Outcome State Fault Refusal := runCommand .anlz false anlzBody s

end Sys2Proof.Machine
end

