-- ==== Sys2Proof/Machine/Decoder.lean ====
section
/-! DEFINITION. The bit-boundary synchroniser and classifier: commands DEC and DEMOD (spec/43_decoder.md R170 to
R178). -/

namespace Sys2Proof.Machine

/-- The centre of frame `j` lies in bit window `b`: `b × SPB ≤ j × HOP + W/2 < (b + 1) × SPB` (R171, R172). -/
def centreInWindow (s : State) (b j : Nat) : Bool :=
  decide (b * s.spb.toNat ≤ frameCentre s j ∧ frameCentre s j < (b + 1) * s.spb.toNat)

/-- The frames below `NFRM` whose centre lies in bit window `b`; only these entries of FRMMEM are read for it
(R172; log entry 5). -/
def framesInWindow (s : State) (b : Nat) : List Nat := (List.range s.nfrm.toNat).filter (centreInWindow s b)

/-- VALID, bit 31 of a frame (R43). -/
def frameValid (w : Word) : Bool := w.getLsbD 31

/-- `F`, bits 30:0 of a frame (R43). -/
def frameFrequency (w : Word) : Nat := (w.extractLsb' 0 31).toNat

/-- The RXMEM entry of a bit position whose window holds the frames listed: `CNT` counts the valid ones, `SUM` adds
their frequencies; 2 (ERR = 1, BIT = 0) if there is none, else the classifier's bit (R173 to R176). -/
def classify (fcenter : Nat) (frames : List Word) : BitVec 2 :=
  let valid := frames.filter frameValid
  if valid.length = 0 then 2
  else if valid.length * fcenter < (valid.map frameFrequency).sum then 1
  else 0

/-- The RXMEM entry of bit position `b` (R176). -/
def decodePosition (s : State) (b : Nat) : Except Fault (BitVec 2) :=
  match fetchAll .frmmem s.frmmem (framesInWindow s b) with
  | .error f => .error f
  | .ok frames => .ok (classify s.fcenter.toNat frames)

/-- The RXMEM entries of the positions listed, in order (R176). -/
def decodePositions (s : State) : List Nat → Except Fault (List (BitVec 2))
  | [] => .ok []
  | b :: bs =>
    match decodePosition s b with
    | .error f => .error f
    | .ok v =>
      match decodePositions s bs with
      | .error f => .error f
      | .ok vs => .ok (v :: vs)

/-- How many positions are incomplete: `ERRCNT` (R38, R175). -/
def incompleteCount : List (BitVec 2) → Nat
  | [] => 0
  | v :: vs => if v = 2 then incompleteCount vs + 1 else incompleteCount vs

/-- `ERRPOS`: the first incomplete position, counted from `b`, or 0xFFFFFFFF (R38, R175). -/
def firstIncomplete : Nat → List (BitVec 2) → Word
  | _, [] => 0xFFFFFFFF
  | b, v :: vs => if v = 2 then BitVec.ofNat 32 b else firstIncomplete (b + 1) vs

/-- The body of `DEC` (R176). -/
def decBody (s : State) : Except Fault State :=
  match decodePositions s (List.range (bitCount s)) with
  | .error f => .error f
  | .ok codes =>
    .ok { s with
      rxmem := Memory.storeFromZero s.rxmem codes
      errcnt := BitVec.ofNat 32 (incompleteCount codes)
      errpos := firstIncomplete 0 codes
      nbits := BitVec.ofNat 32 (bitCount s) }

/-- `DEC` (R176). -/
def execDec (s : State) : Host.Outcome State Fault Refusal := runCommand .dec true decBody s

/-- The body of `DEMOD`: the body of `ANLZ`, then the body of `DEC` with the `NFRM` the first part wrote (R177). -/
def demodBody (s : State) : Except Fault State :=
  match anlzBody s with
  | .error f => .error f
  | .ok t => decBody t

/-- `DEMOD` (R177). -/
def execDemod (s : State) : Host.Outcome State Fault Refusal := runCommand .demod true demodBody s

end Sys2Proof.Machine
end

