-- ==== Sys2Proof/Machine/Modulator.lean ====
section
/-! DEFINITION. The modulator: command MOD (spec/40_modulator.md R110 to R116). -/

namespace Sys2Proof.Machine

/-- Phase to amplitude: `SIN[p[31:22]]` as a 16-bit sample (R114). -/
def sampleOf (p : Word) : BitVec 16 := BitVec.ofInt 16 (sinRom (p.extractLsb' 22 10).toNat)

/-- `count` samples of the tone `f` from phase `p`, each formed before the phase advances, and the phase after them
(R113). -/
def toneRun (f : Word) : Nat → Word → List (BitVec 16) × Word
  | 0, p => ([], p)
  | count + 1, p => (sampleOf p :: (toneRun f count (p + f)).1, (toneRun f count (p + f)).2)

/-- The segments of the tones listed, `spb` samples each, in order, the phase carried across the boundaries (R113,
R115), and the phase after them. -/
def modulate (spb : Nat) : List Word → Word → List (BitVec 16) × Word
  | [], p => ([], p)
  | f :: fs, p =>
    ((toneRun f spb p).1 ++ (modulate spb fs (toneRun f spb p).2).1, (modulate spb fs (toneRun f spb p).2).2)

/-- The body of `MOD n` (R115). -/
def modBody (n : Nat) (s : State) : Except Fault State :=
  match fetchRun .txmem s.txmem 0 n with
  | .error f => .error f
  | .ok bits =>
    .ok { s with
      smpmem := Memory.storeFromZero s.smpmem (modulate s.spb.toNat (bits.map (toneWord s)) 0).1
      phase := (modulate s.spb.toNat (bits.map (toneWord s)) 0).2
      slen := BitVec.ofNat 32 (n * s.spb.toNat) }

/-- `MOD n` (R115). -/
def execMod (n : Nat) (s : State) : Host.Outcome State Fault Refusal := runCommand (.mod n) false (modBody n) s

end Sys2Proof.Machine
end

