-- ==== Sys2Proof/Machine/Dispatch.lean ====
section
/-! DEFINITION. One arm per command (spec/30_encoding.md R91). -/

namespace Sys2Proof.Machine

def exec (i : Instr) (s : State) : Host.Outcome State Fault Refusal :=
  match i with
  | .nop => Sys2Proof.Machine.execNop s
  | .check => Sys2Proof.Machine.execCheck s
  | .mod n => Sys2Proof.Machine.execMod n s
  | .xfrm j => Sys2Proof.Machine.execXfrm j s
  | .xtrc => Sys2Proof.Machine.execXtrc s
  | .anlz => Sys2Proof.Machine.execAnlz s
  | .dec => Sys2Proof.Machine.execDec s
  | .demod => Sys2Proof.Machine.execDemod s

end Sys2Proof.Machine
end

