-- ==== Sys2Proof/Machine/Reset.lean ====
section
/-! DEFINITION. The reset event (spec/70_reset_and_hazards.md R230 to R232). -/

namespace Sys2Proof.Machine

/-- The reset event: every register takes its reset value and CMDLATCH is discarded (R230), so that a pending command
never completes (R231). No memory is written, and every entry holds an unspecified value until the host or a command
writes it again (R45, U2: "not written since reset"): all are unwritten, the ranges of R231 among them (log entry 8).
What the host does next and what it has read are not the block's and stay. -/
def hardReset (s : State) : State := { State.reset with turns := s.turns, rdata := s.rdata, draws := s.draws }

end Sys2Proof.Machine
end

