-- ==== Sys2Proof/Machine/Turn.lean ====
section
/-! DEFINITION. What each turn of the two agents and of the reset input does (spec/00_scope.md R4,
spec/44_control.md R190, spec/70_reset_and_hazards.md R230; log entry 1). -/

namespace Sys2Proof.Machine

/-- CORE's turn: its step exactly when BUSY = 1 (R190), running the latched word (R191); nothing otherwise. -/
def coreTurn (s : State) : Host.Outcome State Fault Refusal :=
  if s.status.busy then
    match decode s.cmdlatch with
    | .cmd i => exec i s
    | .illegal _ => execIllegal s
  else .next s

/-- One turn, already dropped from the list. -/
def serveTurn (t : Turn) (s : State) : Host.Outcome State Fault Refusal :=
  match t with
  | .core => coreTurn s
  | .read addr => .next (busRead addr s)
  | .write addr data => .next (busWrite addr data s)
  | .reset => .next (hardReset s)

end Sys2Proof.Machine
end

