-- ==== Sys2Proof/Machine/Step.lean ====
section
/-! DEFINITION. One step of the machine: the next turn of the two agents or the reset input (spec/00_scope.md R4,
spec/44_control.md R190, spec/70_reset_and_hazards.md R230; log entry 1). -/

namespace Sys2Proof.Machine

/-- One step: the next turn listed. With no turn left CORE moves if it can (R241: it is eventually taken), else the
block is idle and keeps all state (R219). -/
def step (s : State) : Host.Outcome State Fault Refusal :=
  match s.turns with
  | [] => coreTurn s
  | t :: rest => serveTurn t { s with turns := rest }

/-- The word `w` of `nbits` bits accepted into CMDLATCH (R75) with CORE's turn next, so that the next step runs exactly
it. FSKCORE fetches no program (R21): this stands for the host's write to CMD (log entry 9). -/
def State.withFetchWord (s : State) (nbits w : Nat) : State :=
  { s.accept (BitVec.ofNat 32 (w % 2 ^ nbits)) with turns := .core :: s.turns }

end Sys2Proof.Machine
end

