-- ==== Sys2Proof/Safety.lean ====
section
/-! DEFINITION. The terms claims are made in: a command's next state, the hypotheses under which the spec lets a
command's body run (spec/44_control.md R192, R193), the memories' contents, and the invariant of the machine. -/

namespace Sys2Proof.Safety

open Sys2Proof.Machine

/-- The next state, where the outcome is one. -/
def nextState : Host.Outcome State Fault Refusal → Option State
  | .next t => some t
  | .fault _ => none
  | .refused _ => none

/-- A safe run: every step so far answered a next state. -/
def Safe (k : Nat) (s : State) : Prop := ∃ t, Host.Core.run core k s = .next t

/-- Entries `lo .. lo + len - 1` hold values. -/
def written {w : Nat} (m : Memory w) (lo len : Nat) : Bool :=
  (List.range' lo len).all fun i => (Memory.read m i).isSome

/-- None of `FC0`, `FD0`, `FDGE`, `NYQ` holds (R192). -/
abbrev TonesLegal (s : State) : Prop :=
  s.fcenter.toNat ≠ 0 ∧ s.fdev.toNat ≠ 0 ∧ s.fdev.toNat < s.fcenter.toNat ∧ s.fcenter.toNat + s.fdev.toNat < 2 ^ 31

/-- `WLOG` does not hold (R192). -/
abbrev WindowLegal (s : State) : Prop := 3 ≤ s.wlog2.toNat ∧ s.wlog2.toNat ≤ 10

/-- `BAND` does not hold: the band holds a bin (R192). -/
abbrev BandLegal (s : State) : Prop := binLow s ≤ binHigh s

/-- None of the nine causes holds (R192). -/
abbrev AllLegal (s : State) : Prop :=
  TonesLegal s ∧ s.spb.toNat ≠ 0 ∧ WindowLegal s ∧ s.hop.toNat ≠ 0 ∧ 2 ^ s.wlog2.toNat ≤ s.spb.toNat ∧ BandLegal s

/-- STATUS after a command that raised nothing (R196): `incomplete` says whether bit positions are incomplete. -/
def completed (st : Status) (incomplete : Bool) : Status :=
  { busy := false, done := true, cfgErr := false, incomplete := incomplete, cmdErr := false, lastOp := st.lastOp }

/-- `t` is `s` with at most STATUS, CFGCAUSE and ESTICKY changed: what a command that raised an error leaves (R191,
R203, R206). -/
def OnlyCompletion (s t : State) : Prop :=
  t = { s with status := t.status, cfgcause := t.cfgcause, esticky := t.esticky }

/-- `P(t)` of R115: the phase before sample `t`, for tone words `tone i` of bit `i` and `spb` samples a bit. -/
def phaseBefore (tone : Nat → Word) (spb : Nat) : Nat → Word
  | 0 => 0
  | t + 1 => phaseBefore tone spb t + tone (t / spb)

/-- The frequencies that vote in bit window `b`: the `F` fields of the valid frames below `NFRM` whose centre
`j × HOP + W/2` lies in `b × SPB .. (b + 1) × SPB - 1` (R172, R173). -/
def votes (s : State) (b : Nat) : List Nat :=
  ((List.range s.nfrm.toNat).filter fun j =>
      decide (b * s.spb.toNat ≤ j * s.hop.toNat + 2 ^ s.wlog2.toNat / 2 ∧
        j * s.hop.toNat + 2 ^ s.wlog2.toNat / 2 < (b + 1) * s.spb.toNat)).filterMap fun j =>
    match Memory.read s.frmmem j with
    | some v => if v.toNat < 2 ^ 31 then none else some (v.toNat % 2 ^ 31)
    | none => none

/-- The RXMEM entry of bit position `b`: 2 where nothing votes (R175), else 1 iff the sum exceeds count times FCENTER
(R174). -/
def bitCode (s : State) (b : Nat) : BitVec 2 :=
  if votes s b = [] then 2
  else if (votes s b).length * s.fcenter.toNat < (votes s b).sum then 1
  else 0

/-- How many leading entries of a memory a command writes when it runs without raising: the ranges of R80, all of which
start at entry 0. -/
def writtenBelow : Instr → Space → State → Nat
  | .mod n, .smpmem, s => n * s.spb.toNat
  | .xfrm _, .specmem, s => 2 ^ s.wlog2.toNat / 2 + 1
  | .anlz, .frmmem, s => frameCount s
  | .anlz, .specmem, s => if frameCount s = 0 then 0 else 2 ^ s.wlog2.toNat / 2 + 1
  | .dec, .rxmem, s => bitCount s
  | .demod, .frmmem, s => frameCount s
  | .demod, .specmem, s => if frameCount s = 0 then 0 else 2 ^ s.wlog2.toNat / 2 + 1
  | .demod, .rxmem, s => bitCount s
  | .nop, _, _ | .check, _, _ | .xtrc, _, _ => 0
  | .mod _, .specmem, _ | .mod _, .txmem, _ | .mod _, .rxmem, _ | .mod _, .frmmem, _ => 0
  | .xfrm _, .smpmem, _ | .xfrm _, .txmem, _ | .xfrm _, .rxmem, _ | .xfrm _, .frmmem, _ => 0
  | .anlz, .smpmem, _ | .anlz, .txmem, _ | .anlz, .rxmem, _ => 0
  | .dec, .smpmem, _ | .dec, .txmem, _ | .dec, .frmmem, _ | .dec, .specmem, _ => 0
  | .demod, .smpmem, _ | .demod, .txmem, _ => 0

/-- The memories are in their one form and within their depths (R40 to R44). -/
abbrev MemoriesWf (s : State) : Prop :=
  Memory.wf Config.smpDepth s.smpmem ∧ Memory.wf Config.bitDepth s.txmem ∧ Memory.wf Config.bitDepth s.rxmem ∧
  Memory.wf Config.frmDepth s.frmmem ∧ Memory.wf Config.specDepth s.specmem

/-- What holds of every state a run from reset reaches. -/
structure Inv (s : State) : Prop where
  /-- the memories are canonical and within their depths -/
  memories : MemoriesWf s
  /-- while a command is pending DONE and the per-command error bits are clear and LASTOP mirrors the latch (R39, R75) -/
  pending : s.status.busy = true → s.status.done = false ∧ s.status.cfgErr = false ∧ s.status.incomplete = false ∧
    s.status.cmdErr = false ∧ s.cfgcause = Causes.none ∧ s.status.lastOp = s.cmdlatch.extractLsb' 24 8
  /-- at most one of CFGERR, CMDERR and INCOMPLETE (R196) -/
  oneError : (s.status.cfgErr = false ∨ s.status.cmdErr = false) ∧
    (s.status.incomplete = true → s.status.cfgErr = false ∧ s.status.cmdErr = false)
  /-- CFGCAUSE holds a cause exactly when the last command raised ConfigurationError (R27) -/
  causes : s.status.cfgErr = true ↔ s.cfgcause ≠ Causes.none
  /-- ERRCNT counts positions below NBITS, and no buffer has more than 65536 of them (R38) -/
  counts : s.errcnt.toNat ≤ s.nbits.toNat ∧ s.nbits.toNat ≤ 65536
  /-- ERRPOS is 0xFFFFFFFF exactly when no position is incomplete, and a position below NBITS otherwise (R38) -/
  firstError : (s.errpos = 0xFFFFFFFF ↔ s.errcnt = 0) ∧ (s.errcnt ≠ 0 → s.errpos.toNat < s.nbits.toNat)
  /-- INCOMPLETE means that the last command was DEC or DEMOD and left an incomplete position (R196) -/
  incomplete : s.status.incomplete = true → s.errcnt ≠ 0 ∧ (s.status.lastOp = 0x06 ∨ s.status.lastOp = 0x07)
  /-- every RXMEM entry is 0, 1 or 2: a position with ERR = 1 has BIT = 0 (R42, R62) -/
  codes : ∀ e ∈ s.rxmem, e.2 ≠ 3
  /-- PEAK is never the Nyquist bin of the largest window or above (R151) -/
  peak : s.peak.toNat < 512
  /-- TOFF is the offset of a frame inside SMPMEM (R131, R137) -/
  offset : s.toff.toNat < 65536

end Sys2Proof.Safety
end

