-- ==== Sys2Proof/Certificates/Slice0/Obligations.lean ====
section
/-! DEFINITION. The statements for the provers, from the numbered rules of spec/. A statement that rests on a choice of
the model's own says so and names its log entry. -/

open Sys2Proof
open Sys2Proof.Machine
open Sys2Proof.Safety

/-! ### Command words (spec/30_encoding.md) -/

/-- R90 to R92: every well-formed command, with its operand at every value ARG admits, is what its word decodes to. -/
def Obligations.DecodeEncodeRoundTrip : Prop :=
  ∀ i : Instr, i.wf = true → decode (encode i) = .cmd i

/-- R90 to R92: a word that decodes to a command is that command's word, and the command is well formed. -/
def Obligations.EncodeDecodeRoundTrip : Prop :=
  ∀ (c : Word) (i : Instr), decode c = .cmd i → i.wf = true ∧ encode i = c

/-- R94, whole: the eight match-and-mask rows, no overlap, and illegal is matching none. -/
def Obligations.DecodeIsMatchAndMask : Prop :=
  (∀ c : Word,
    (decode c = .cmd .nop ↔ c &&& 0xFFFFFFFF = 0x00000000) ∧
    (decode c = .cmd .check ↔ c &&& 0xFFFFFFFF = 0x01000000) ∧
    ((∃ n, decode c = .cmd (.mod n)) ↔ c &&& 0xFF000000 = 0x02000000) ∧
    ((∃ j, decode c = .cmd (.xfrm j)) ↔ c &&& 0xFF000000 = 0x03000000) ∧
    (decode c = .cmd .xtrc ↔ c &&& 0xFFFFFFFF = 0x04000000) ∧
    (decode c = .cmd .anlz ↔ c &&& 0xFFFFFFFF = 0x05000000) ∧
    (decode c = .cmd .dec ↔ c &&& 0xFFFFFFFF = 0x06000000) ∧
    (decode c = .cmd .demod ↔ c &&& 0xFFFFFFFF = 0x07000000) ∧
    ((∃ why, decode c = .illegal why) ↔ ∀ r ∈ matchTable, r.hits c = false)) ∧
  matchTable.Pairwise fun a b => ∀ c : Word, ¬(a.hits c = true ∧ b.hits c = true)

/-- R93, whole: which words are illegal; an illegal word is accepted like any other; its CORE step raises CommandError
and changes nothing else. -/
def Obligations.IllegalWordsRaiseCommandError : Prop :=
  ∀ c : Word,
    ((∃ why, decode c = .illegal why) ↔
      8 ≤ c.toNat / 2 ^ 24 ∨ (c.toNat / 2 ^ 24 ∈ [0, 1, 4, 5, 6, 7] ∧ c.toNat % 2 ^ 24 ≠ 0)) ∧
    ((∃ why, decode c = .illegal why) ∨ ∃ i, decode c = .cmd i) ∧
    (∀ s : State, s.status.busy = false → busWrite 0x08 c s = s.accept c) ∧
    ∀ (s : State) (why : Illegal), decode c = .illegal why → s.status.busy = true → s.cmdlatch = c →
      coreTurn s = .next { s with
        status := { s.status with busy := false, done := true, cfgErr := false, incomplete := false, cmdErr := true }
        cfgcause := Causes.none
        esticky := { s.esticky with cmdErr := true } }

/-- R91: a few words, written out from the format, decode to the commands they stand for. -/
def Obligations.WordsOfTheSpecDecode : Prop :=
  decode 0x00000000 = .cmd .nop ∧ decode 0x01000000 = .cmd .check ∧ decode 0x02000004 = .cmd (.mod 4) ∧
  decode 0x02FFFFFF = .cmd (.mod 16777215) ∧ decode 0x03000008 = .cmd (.xfrm 8) ∧ decode 0x04000000 = .cmd .xtrc ∧
  decode 0x05000000 = .cmd .anlz ∧ decode 0x06000000 = .cmd .dec ∧ decode 0x07000000 = .cmd .demod ∧
  decode 0x08000000 = .illegal (.opcode 0x08) ∧ decode 0x00000001 = .illegal (.argument 0x00 1) ∧
  decode 0x07FFFFFF = .illegal (.argument 0x07 0xFFFFFF)

/-! ### Registers and the bus (spec/10_state.md, spec/20_memory.md) -/

/-- R22, reset column: what the host reads from each register right after reset, and `irq` is low. -/
def Obligations.ResetStateReadsTable : Prop :=
  (∀ p ∈ ([(0x00, 0x46534B31), (0x04, 0x3A101010), (0x08, 0), (0x0C, 0), (0x10, 0), (0x14, 0), (0x18, 1)] ++
      [(0x1C, 0x3A0CC55F), (0x20, 0x02E709DE), (0x24, 0x02E709DE), (0x28, 0x000001B9), (0x2C, 8), (0x30, 0x40)] ++
      [(0x34, 1), (0x38, 0), (0x3C, 0), (0x40, 0x3725BB81), (0x44, 0x3CF3CF3D), (0x48, 0), (0x4C, 0), (0x50, 0)] ++
      [(0x54, 0), (0x58, 0), (0x5C, 0), (0x60, 0), (0x64, 0xFFFFFFFF)] : List (Addr × Word)),
    (busRead p.1 State.reset).rdata = some p.2) ∧ irq State.reset = false

/-- R23 and R24, whole: ID and CAP read their constants in every state, and CAP's fields are the sizes of R5. -/
def Obligations.IdAndCapReadConstants : Prop :=
  (∀ s : State, (busRead 0x00 s).rdata = some 0x46534B31 ∧ (busRead 0x04 s).rdata = some 0x3A101010) ∧
  2 ^ ((0x3A101010 : Word).extractLsb' 0 8).toNat = Config.smpDepth ∧
  2 ^ ((0x3A101010 : Word).extractLsb' 8 8).toNat = Config.bitDepth ∧
  2 ^ ((0x3A101010 : Word).extractLsb' 16 8).toNat = Config.frmDepth ∧
  ((0x3A101010 : Word).extractLsb' 24 4).toNat = Config.wlog2Max ∧
  ((0x3A101010 : Word).extractLsb' 28 4).toNat = Config.wlog2Min

/-- R75 and R25, whole: a write to CMD with BUSY = 0 is the acceptance, with exactly these effects; a read of CMD gives
0; with BUSY = 1 the write is gated. -/
def Obligations.CommandAcceptance : Prop :=
  ∀ (c : Word) (s : State),
    (s.status.busy = false →
      busWrite 0x08 c s = { s with
        cmdlatch := c
        status := ⟨true, false, false, false, false, c.extractLsb' 24 8⟩
        cfgcause := Causes.none } ∧
      (busRead 0x08 s).rdata = some 0) ∧
    (s.status.busy = true → busWrite 0x08 c s = { s with esticky := { s.esticky with busyErr := true } })

/-- R33, whole: F0 and F1 are read-only views computed at the read; under the four checks neither wraps; the commands
use the same two values. -/
def Obligations.TonesAreDerived : Prop :=
  ∀ s : State,
    (s.status.busy = false → ∀ d : Word,
      (busRead 0x40 s).rdata = some (toneZero s) ∧ (busRead 0x44 s).rdata = some (toneOne s) ∧
      busWrite 0x40 d s = s ∧ busWrite 0x44 d s = s) ∧
    (toneZero s).toNat = (s.fcenter.toNat + (2 ^ 32 - s.fdev.toNat)) % 2 ^ 32 ∧
    (toneOne s).toNat = (s.fcenter.toNat + s.fdev.toNat) % 2 ^ 32 ∧
    (TonesLegal s →
      (toneZero s).toNat = s.fcenter.toNat - s.fdev.toNat ∧ (toneOne s).toNat = s.fcenter.toNat + s.fdev.toNat ∧
      0 < (toneZero s).toNat ∧ (toneZero s).toNat < s.fcenter.toNat ∧ s.fcenter.toNat < (toneOne s).toNat ∧
      (toneOne s).toNat < 2 ^ 31) ∧
    toneWord s 0 = toneZero s ∧ toneWord s 1 = toneOne s

/-- R26 to R29, R32, R37: the bits of the registers with fields, and the reserved bits, which read 0. R62 steps 3, 5
and 6: what an idle host's read returns at every register and every entry, SMPMEM sign-extended and TXMEM and RXMEM
zero-extended, with no other effect. That an entry nothing has written reads a free value, cut to the entry's width and
extended likewise, is the form the model gives U2 (log entries 3 and 4). -/
def Obligations.RegisterFieldsAsRead : Prop :=
  ∀ s : State,
    (let v := readRegister s .status;
      v.getLsbD 0 = s.status.busy ∧ v.getLsbD 1 = s.status.done ∧ v.getLsbD 2 = s.status.cfgErr ∧
      v.getLsbD 3 = s.status.incomplete ∧ v.getLsbD 4 = s.status.cmdErr ∧ v.extractLsb' 5 3 = 0 ∧
      v.extractLsb' 8 8 = s.status.lastOp ∧ v.extractLsb' 16 16 = 0) ∧
    (let v := readRegister s .cfgcause;
      v.getLsbD 0 = s.cfgcause.fc0 ∧ v.getLsbD 1 = s.cfgcause.fd0 ∧ v.getLsbD 2 = s.cfgcause.fdge ∧
      v.getLsbD 3 = s.cfgcause.nyq ∧ v.getLsbD 4 = s.cfgcause.spb0 ∧ v.getLsbD 5 = s.cfgcause.wlog ∧
      v.getLsbD 6 = s.cfgcause.hop0 ∧ v.getLsbD 7 = s.cfgcause.winspb ∧ v.getLsbD 8 = s.cfgcause.band ∧
      v.getLsbD 9 = s.cfgcause.cap ∧ v.extractLsb' 10 22 = 0) ∧
    (let v := readRegister s .esticky;
      v.getLsbD 0 = s.esticky.cfgErr ∧ v.getLsbD 1 = s.esticky.incomplete ∧ v.getLsbD 2 = s.esticky.cmdErr ∧
      v.getLsbD 3 = s.esticky.fmtErr ∧ v.getLsbD 4 = s.esticky.busyErr ∧ v.getLsbD 5 = s.esticky.addrErr ∧
      v.extractLsb' 6 26 = 0) ∧
    (let v := readRegister s .ctrl;
      v.getLsbD 0 = s.ctrl.interp ∧ v.getLsbD 1 = s.ctrl.ie ∧ v.extractLsb' 2 30 = 0) ∧
    (let v := readRegister s .wlog2; v.extractLsb' 0 4 = s.wlog2 ∧ v.extractLsb' 4 28 = 0) ∧
    (let v := readRegister s .peak; v.extractLsb' 0 10 = s.peak ∧ v.extractLsb' 10 22 = 0) ∧
    (let v := readRegister s .freq;
      v.getLsbD 31 = frameValid s.freq ∧ (v.extractLsb' 0 31).toNat = frameFrequency s.freq ∧
      v.toNat = 2 ^ 31 * (frameValid s.freq).toNat + frameFrequency s.freq) ∧
    (s.status.busy = false →
      (∀ p ∈ ([(0x00, 0x46534B31), (0x04, 0x3A101010), (0x08, 0), (0x0C, readRegister s .status)] ++
          [(0x10, readRegister s .cfgcause), (0x14, readRegister s .esticky), (0x18, readRegister s .ctrl)] ++
          [(0x1C, s.fcenter), (0x20, s.fdev), (0x24, s.fmargin), (0x28, s.spb), (0x2C, s.wlog2.setWidth 32)] ++
          [(0x30, s.hop), (0x34, s.mthresh), (0x38, s.slen), (0x3C, s.nfrm), (0x40, s.fcenter - s.fdev)] ++
          [(0x44, s.fcenter + s.fdev), (0x48, s.phase), (0x4C, s.toff), (0x50, s.peak.setWidth 32)] ++
          [(0x54, s.peakmag), (0x58, s.freq), (0x5C, s.nbits), (0x60, s.errcnt), (0x64, s.errpos)] :
          List (Addr × Word)), busRead p.1 s = { s with rdata := some p.2 }) ∧
      (∀ k, k ≤ 512 → busRead (BitVec.ofNat 21 (0x001000 + 4 * k)) s =
        match Memory.read s.specmem k with
        | some v => { s with rdata := some v }
        | none => { s with rdata := some (Config.freeWord s.draws), draws := s.draws + 1 }) ∧
      ∀ i, i < 65536 →
        (busRead (BitVec.ofNat 21 (0x040000 + 4 * i)) s =
          match Memory.read s.smpmem i with
          | some v => { s with rdata := some (BitVec.ofInt 32 v.toInt) }
          | none => { s with
              rdata := some (BitVec.ofInt 32 ((Config.freeWord s.draws).setWidth 16).toInt), draws := s.draws + 1 }) ∧
        (busRead (BitVec.ofNat 21 (0x080000 + 4 * i)) s =
          match Memory.read s.txmem i with
          | some v => { s with rdata := some (BitVec.ofNat 32 v.toNat) }
          | none => { s with
              rdata := some (BitVec.ofNat 32 ((Config.freeWord s.draws).toNat % 2)), draws := s.draws + 1 }) ∧
        (busRead (BitVec.ofNat 21 (0x0C0000 + 4 * i)) s =
          match Memory.read s.rxmem i with
          | some v => { s with rdata := some (BitVec.ofNat 32 v.toNat) }
          | none => { s with
              rdata := some (BitVec.ofNat 32 ((Config.freeWord s.draws).toNat % 4)), draws := s.draws + 1 }) ∧
        busRead (BitVec.ofNat 21 (0x100000 + 4 * i)) s =
          match Memory.read s.frmmem i with
          | some v => { s with rdata := some v }
          | none => { s with rdata := some (Config.freeWord s.draws), draws := s.draws + 1 })

/-- R28: a step clears a sticky bit only at a reset or by the host's write to ESTICKY, and that write clears exactly
the bits written as 1. -/
def Obligations.StickyClearedOnlyByHost : Prop :=
  (∀ s t : State, step s = .next t → (∀ rest, s.turns ≠ .reset :: rest) →
    (∀ d rest, s.turns = .write 0x14 d :: rest → s.status.busy = true) →
    (s.esticky.cfgErr = true → t.esticky.cfgErr = true) ∧
    (s.esticky.incomplete = true → t.esticky.incomplete = true) ∧
    (s.esticky.cmdErr = true → t.esticky.cmdErr = true) ∧
    (s.esticky.fmtErr = true → t.esticky.fmtErr = true) ∧
    (s.esticky.busyErr = true → t.esticky.busyErr = true) ∧
    (s.esticky.addrErr = true → t.esticky.addrErr = true)) ∧
  ∀ (s : State) (d : Word), s.status.busy = false → busWrite 0x14 d s = { s with esticky :=
    { cfgErr := s.esticky.cfgErr && !d.getLsbD 0
      incomplete := s.esticky.incomplete && !d.getLsbD 1
      cmdErr := s.esticky.cmdErr && !d.getLsbD 2
      fmtErr := s.esticky.fmtErr && !d.getLsbD 3
      busyErr := s.esticky.busyErr && !d.getLsbD 4
      addrErr := s.esticky.addrErr && !d.getLsbD 5 } }

/-- R64, R65 and R208, whole: a misaligned or unmapped access has no effect but ADDRERR, and a read returns 0, whether
or not a command is pending. -/
def Obligations.MisalignedAndUnmappedAccesses : Prop :=
  ∀ (a : Addr) (d : Word) (s : State),
    (a.toNat % 4 ≠ 0 ∨ (0x000068 ≤ a.toNat ∧ a.toNat < 0x001000) ∨ (0x001804 ≤ a.toNat ∧ a.toNat < 0x040000) ∨
      0x140000 ≤ a.toNat) →
    busRead a s = { s with esticky := { s.esticky with addrErr := true }, rdata := some 0 } ∧
    busWrite a d s = { s with esticky := { s.esticky with addrErr := true } }

/-- R61 and R22: the register or entry every mapped word address reaches. -/
def Obligations.AddressMap : Prop :=
  (∀ n r, ([Reg.id, .cap, .cmd, .status, .cfgcause, .esticky, .ctrl, .fcenter, .fdev, .fmargin, .spb, .wlog2, .hop] ++
      [.mthresh, .slen, .nfrm, .f0, .f1, .phase, .toff, .peak, .peakmag, .freq, .nbits, .errcnt, .errpos])[n]? = some r →
    targetOf (BitVec.ofNat 21 (4 * n)) = .register r) ∧
  (∀ k, k ≤ 512 → targetOf (BitVec.ofNat 21 (0x001000 + 4 * k)) = .entry .specmem k) ∧
  ∀ i, i < 65536 →
    targetOf (BitVec.ofNat 21 (0x040000 + 4 * i)) = .entry .smpmem i ∧
    targetOf (BitVec.ofNat 21 (0x080000 + 4 * i)) = .entry .txmem i ∧
    targetOf (BitVec.ofNat 21 (0x0C0000 + 4 * i)) = .entry .rxmem i ∧
    targetOf (BitVec.ofNat 21 (0x100000 + 4 * i)) = .entry .frmmem i

/-- R66, whole: while BUSY = 1 a write to any mapped word changes nothing but BUSYERR; a read of anything but STATUS, ID
and CAP returns a free value (log entry 3) and sets BUSYERR; reads of those three are served. -/
def Obligations.BusyGate : Prop :=
  ∀ (a : Addr) (d : Word) (s : State), s.status.busy = true → a.toNat % 4 = 0 →
    (a.toNat < 0x000068 ∨ (0x001000 ≤ a.toNat ∧ a.toNat < 0x001804) ∨ (0x040000 ≤ a.toNat ∧ a.toNat < 0x140000)) →
    busWrite a d s = { s with esticky := { s.esticky with busyErr := true } } ∧
    (a ≠ 0x00 → a ≠ 0x04 → a ≠ 0x0C →
      busRead a s = { s with
        esticky := { s.esticky with busyErr := true }
        rdata := some (Config.freeWord s.draws)
        draws := s.draws + 1 }) ∧
    (a = 0x00 → busRead a s = { s with rdata := some 0x46534B31 }) ∧
    (a = 0x04 → busRead a s = { s with rdata := some 0x3A101010 }) ∧
    (a = 0x0C → busRead a s = { s with rdata := some s.status.word })

/-- R68, whole: the checked write to SMPMEM, and its frame. -/
def Obligations.SampleWriteIsChecked : Prop :=
  ∀ (s : State) (i : Nat) (d : Word), s.status.busy = false → i < 65536 →
    (d = (d.setWidth 16).signExtend 32 ↔ d.extractLsb' 15 17 = 0 ∨ d.extractLsb' 15 17 = BitVec.allOnes 17) ∧
    (d = (d.setWidth 16).signExtend 32 →
      ∃ m, busWrite (BitVec.ofNat 21 (0x040000 + 4 * i)) d s = { s with smpmem := m } ∧
        Memory.read m i = some (d.setWidth 16) ∧ ∀ k, k ≠ i → Memory.read m k = Memory.read s.smpmem k) ∧
    (d ≠ (d.setWidth 16).signExtend 32 →
      busWrite (BitVec.ofNat 21 (0x040000 + 4 * i)) d s = { s with esticky := { s.esticky with fmtErr := true } })

/-- R69, whole: the checked write to TXMEM, and its frame. -/
def Obligations.BitWriteIsChecked : Prop :=
  ∀ (s : State) (i : Nat) (d : Word), s.status.busy = false → i < 65536 →
    (d = 0 ∨ d = 1 →
      ∃ m, busWrite (BitVec.ofNat 21 (0x080000 + 4 * i)) d s = { s with txmem := m } ∧
        Memory.read m i = some (d.setWidth 1) ∧ ∀ k, k ≠ i → Memory.read m k = Memory.read s.txmem k) ∧
    (¬(d = 0 ∨ d = 1) →
      busWrite (BitVec.ofNat 21 (0x080000 + 4 * i)) d s = { s with esticky := { s.esticky with fmtErr := true } })

/-- R63 and R67: a write to a writable register stores the data, masked to the bits the register implements, and changes
nothing else; a write to SPECMEM or FRMMEM stores the word in that one entry; each reads back what was stored. A write to
a read-only register or to RXMEM does nothing; bit 1 written to STATUS clears DONE. -/
def Obligations.PlainWrites : Prop :=
  ∀ (s : State) (d : Word), s.status.busy = false →
    (busWrite 0x1C d s = { s with fcenter := d } ∧ busWrite 0x20 d s = { s with fdev := d } ∧
      busWrite 0x24 d s = { s with fmargin := d } ∧ busWrite 0x28 d s = { s with spb := d } ∧
      busWrite 0x30 d s = { s with hop := d } ∧ busWrite 0x34 d s = { s with mthresh := d } ∧
      busWrite 0x38 d s = { s with slen := d } ∧ busWrite 0x3C d s = { s with nfrm := d } ∧
      busWrite 0x18 d s = { s with ctrl := { interp := d.getLsbD 0, ie := d.getLsbD 1 } } ∧
      busWrite 0x2C d s = { s with wlog2 := d.extractLsb' 0 4 }) ∧
    (∀ a ∈ ([0x1C, 0x20, 0x24, 0x28, 0x30, 0x34, 0x38, 0x3C] : List Addr),
      (busRead a (busWrite a d s)).rdata = some d) ∧
    (busRead 0x18 (busWrite 0x18 d s)).rdata = some (d &&& 0x3) ∧
    (busRead 0x2C (busWrite 0x2C d s)).rdata = some (d &&& 0xF) ∧
    (∀ k, k ≤ 512 → ∃ m, busWrite (BitVec.ofNat 21 (0x001000 + 4 * k)) d s = { s with specmem := m } ∧
      Memory.read m k = some d ∧ (∀ l, l ≠ k → Memory.read m l = Memory.read s.specmem l) ∧
      (busRead (BitVec.ofNat 21 (0x001000 + 4 * k)) { s with specmem := m }).rdata = some d) ∧
    (∀ j, j < 65536 → ∃ m, busWrite (BitVec.ofNat 21 (0x100000 + 4 * j)) d s = { s with frmmem := m } ∧
      Memory.read m j = some d ∧ (∀ l, l ≠ j → Memory.read m l = Memory.read s.frmmem l) ∧
      (busRead (BitVec.ofNat 21 (0x100000 + 4 * j)) { s with frmmem := m }).rdata = some d) ∧
    (∀ a ∈ ([0x00, 0x04, 0x10, 0x40, 0x44, 0x48, 0x4C, 0x50, 0x54, 0x58, 0x5C, 0x60, 0x64] : List Addr),
      busWrite a d s = s) ∧
    (∀ i, i < 65536 → busWrite (BitVec.ofNat 21 (0x0C0000 + 4 * i)) d s = s) ∧
    busWrite 0x0C d s = { s with status := { s.status with done := s.status.done && !d.getLsbD 1 } }

/-- R210, whole: `irq` is IE and DONE; low at reset; dropped by acknowledging DONE and by the next acceptance; raised by
every completion, with or without error, exactly when IE is set. -/
def Obligations.InterruptLine : Prop :=
  irq State.reset = false ∧
  ∀ s : State,
    (irq s = true ↔ s.ctrl.ie = true ∧ s.status.done = true) ∧
    (∀ d : Word, s.status.busy = false → d.getLsbD 1 = true → irq (busWrite 0x0C d s) = false) ∧
    (∀ c : Word, s.status.busy = false → irq (busWrite 0x08 c s) = false) ∧
    (∀ t : State, s.status.busy = true → coreTurn s = .next t → irq t = s.ctrl.ie)

/-! ### The step (spec/00_scope.md R4, spec/44_control.md) -/

/-- R190, R191: CORE has a step exactly when BUSY = 1, and it runs the command the latched word decodes to. That CORE
moves when its turn is listed and when no turn is left, and that such a turn with BUSY = 0 changes nothing but the list,
is the model's scheduling choice (log entry 1). -/
def Obligations.StepRunsLatchedCommand : Prop :=
  ∀ (s : State) (rest : List Turn), (s.turns = .core :: rest ∨ (s.turns = [] ∧ rest = [])) →
    (∀ i, s.status.busy = true → decode s.cmdlatch = .cmd i → step s = exec i { s with turns := rest }) ∧
    (s.status.busy = false → step s = .next { s with turns := rest })

/-- R4, R60, R230 and log entries 1 and 9: a step serves the turn listed first and drops it from the list; the word
given to `withFetchWord` is what the next step runs. -/
def Obligations.StepServesTurns : Prop :=
  (∀ (s : State) (rest : List Turn),
    (∀ a, s.turns = .read a :: rest → step s = .next (busRead a { s with turns := rest })) ∧
    (∀ a d, s.turns = .write a d :: rest → step s = .next (busWrite a d { s with turns := rest })) ∧
    (s.turns = .reset :: rest → step s = .next (hardReset { s with turns := rest }))) ∧
  ∀ (s : State) (w : Nat) (i : Instr), w < 2 ^ 32 → decodeTableWord 32 w = some i →
    step (s.withFetchWord 32 w) = exec i (s.accept (BitVec.ofNat 32 w))

/-- R196, whole: what completion writes, after a command and after an illegal word. -/
def Obligations.CompletionRecordsErrors : Prop :=
  (∀ (i : Instr) (s t : State), exec i s = .next t →
    t.status.busy = false ∧ t.status.done = true ∧ t.status.lastOp = s.status.lastOp ∧
    (t.status.cfgErr = true ↔ ∃ c, judge i s = .configuration c) ∧
    (∀ c, judge i s = .configuration c → t.cfgcause = c) ∧
    (t.status.cfgErr = false → t.cfgcause = Causes.none) ∧
    (t.status.cmdErr = true ↔ judge i s = .command) ∧
    (t.status.incomplete = true ↔ judge i s = .nothing ∧ (i = .dec ∨ i = .demod) ∧ 0 < t.errcnt.toNat) ∧
    t.esticky = { s.esticky with
      cfgErr := s.esticky.cfgErr || t.status.cfgErr
      incomplete := s.esticky.incomplete || t.status.incomplete
      cmdErr := s.esticky.cmdErr || t.status.cmdErr } ∧
    ¬(t.status.cfgErr = true ∧ t.status.cmdErr = true) ∧
    (t.status.incomplete = true → t.status.cfgErr = false ∧ t.status.cmdErr = false)) ∧
  ∀ s : State, execIllegal s = .next { s with
    status := { s.status with busy := false, done := true, cfgErr := false, incomplete := false, cmdErr := true }
    cfgcause := Causes.none
    esticky := { s.esticky with cmdErr := true } }

/-- R203, whole: a command one of whose relevant causes holds runs no body, writes no memory and no result register, and
completes with the causes recorded. -/
def Obligations.ConfigurationErrorRunsNoBody : Prop :=
  ∀ (i : Instr) (s : State), heldCauses i s ≠ Causes.none →
    exec i s = .next { s with
      status := { s.status with busy := false, done := true, cfgErr := true, incomplete := false, cmdErr := false }
      cfgcause := heldCauses i s
      esticky := { s.esticky with cfgErr := true } }

/-- R192, whole, as CHECK reports it (R195): each of the nine causes and CAP is recorded exactly when its condition
holds, in unbounded integers, all that hold at once. CHECK completes in every state and writes nothing else. -/
def Obligations.CheckReportsEveryCause : Prop :=
  ∀ s : State, ∃ t, exec .check s = .next t ∧ OnlyCompletion s t ∧
    t.status.busy = false ∧ t.status.done = true ∧ t.status.incomplete = false ∧ t.status.cmdErr = false ∧
    (t.status.cfgErr = true ↔ t.cfgcause ≠ Causes.none) ∧
    (t.cfgcause.fc0 = true ↔ s.fcenter.toNat = 0) ∧
    (t.cfgcause.fd0 = true ↔ s.fdev.toNat = 0) ∧
    (t.cfgcause.fdge = true ↔ s.fdev.toNat ≥ s.fcenter.toNat) ∧
    (t.cfgcause.nyq = true ↔ s.fcenter.toNat + s.fdev.toNat ≥ 2 ^ 31) ∧
    (t.cfgcause.spb0 = true ↔ s.spb.toNat = 0) ∧
    (t.cfgcause.wlog = true ↔ s.wlog2.toNat < 3 ∨ s.wlog2.toNat > 10) ∧
    (t.cfgcause.hop0 = true ↔ s.hop.toNat = 0) ∧
    (t.cfgcause.winspb = true ↔ WindowLegal s ∧ 2 ^ s.wlog2.toNat > s.spb.toNat) ∧
    (t.cfgcause.band = true ↔ WindowLegal s ∧
      max 1 ((s.fcenter.toNat - s.fdev.toNat - s.fmargin.toNat + 2 ^ (32 - s.wlog2.toNat) - 1) /
        2 ^ (32 - s.wlog2.toNat)) >
      min (2 ^ s.wlog2.toNat / 2 - 1)
        ((s.fcenter.toNat + s.fdev.toNat + s.fmargin.toNat) / 2 ^ (32 - s.wlog2.toNat))) ∧
    (t.cfgcause.cap = true ↔ s.slen.toNat > 65536 ∨ s.nfrm.toNat > 65536) ∧
    (t.cfgcause.fc0 = true → t.cfgcause.fdge = true) ∧
    (t.cfgcause.spb0 = true → t.cfgcause.wlog = false → t.cfgcause.winspb = true)

/-- R195: with every cause false and the capacities kept, CHECK completes without error, and then DEMOD passes its
checks and MOD passes its own for every `n` that fits. -/
def Obligations.CheckPassesWhenLegal : Prop :=
  ∀ s : State, AllLegal s → s.slen.toNat ≤ 65536 → s.nfrm.toNat ≤ 65536 →
    exec .check s = .next { s with status := completed s.status false, cfgcause := Causes.none } ∧
    judge .demod s = .nothing ∧
    ∀ n, n ≤ 65536 → n * s.spb.toNat ≤ 65536 → judge (.mod n) s = .nothing

/-- R193: the causes XTRC, ANLZ, DEC and DEMOD check and their capacity conditions; a command that raises changes
nothing but what completion writes. -/
def Obligations.DemodulatorChecks : Prop :=
  ∀ s : State,
    (¬(TonesLegal s ∧ WindowLegal s ∧ BandLegal s) → ∃ t, exec .xtrc s = .next t ∧ OnlyCompletion s t ∧
      t.status.cfgErr = true ∧
      t.cfgcause = { cfgCauses s with spb0 := false, hop0 := false, winspb := false, cap := false }) ∧
    (∀ i ∈ [Instr.anlz, .demod], ¬(AllLegal s ∧ s.slen.toNat ≤ 65536) → ∃ t, exec i s = .next t ∧
      OnlyCompletion s t ∧ t.status.cfgErr = true ∧
      t.cfgcause = { cfgCauses s with cap := decide (65536 < s.slen.toNat) }) ∧
    (¬(AllLegal s ∧ s.slen.toNat ≤ 65536 ∧ s.nfrm.toNat ≤ 65536) → ∃ t, exec .dec s = .next t ∧
      OnlyCompletion s t ∧ t.status.cfgErr = true ∧
      t.cfgcause = { cfgCauses s with cap := decide (65536 < s.slen.toNat ∨ 65536 < s.nfrm.toNat) })

/-- R194, whole: NOP succeeds under any register contents and writes completion only. -/
def Obligations.NopCompletes : Prop :=
  (∀ s : State, exec .nop s = .next { s with status := completed s.status false, cfgcause := Causes.none }) ∧
  ∀ arg : BitVec 24, arg ≠ 0 → ∃ why, decode (BitVec.ofNat 32 arg.toNat) = .illegal why

/-- R80, R191 and the writer column of R22: what no command writes, and which commands alone write each of the rest; a
command that raised an error writes only what completion writes. Entries outside the ranges of R80, which all start at
entry 0 and end below `writtenBelow`, are not touched; the last clause gives every one of those ranges. -/
def Obligations.CommandsWriteOnlyTheirFootprint : Prop :=
  (∀ (i : Instr) (s t : State), exec i s = .next t →
    (t.ctrl = s.ctrl ∧ t.fcenter = s.fcenter ∧ t.fdev = s.fdev ∧ t.fmargin = s.fmargin ∧ t.spb = s.spb ∧
      t.wlog2 = s.wlog2 ∧ t.hop = s.hop ∧ t.mthresh = s.mthresh ∧ t.txmem = s.txmem ∧ t.cmdlatch = s.cmdlatch ∧
      t.turns = s.turns ∧ t.rdata = s.rdata ∧ t.draws = s.draws) ∧
    (t.phase ≠ s.phase ∨ t.smpmem ≠ s.smpmem ∨ t.slen ≠ s.slen → ∃ n, i = .mod n) ∧
    (t.specmem ≠ s.specmem ∨ t.toff ≠ s.toff → (∃ j, i = .xfrm j) ∨ i = .anlz ∨ i = .demod) ∧
    (t.peak ≠ s.peak ∨ t.peakmag ≠ s.peakmag ∨ t.freq ≠ s.freq → i = .xtrc ∨ i = .anlz ∨ i = .demod) ∧
    (t.frmmem ≠ s.frmmem ∨ t.nfrm ≠ s.nfrm → i = .anlz ∨ i = .demod) ∧
    (t.rxmem ≠ s.rxmem ∨ t.nbits ≠ s.nbits ∨ t.errcnt ≠ s.errcnt ∨ t.errpos ≠ s.errpos → i = .dec ∨ i = .demod) ∧
    (t.status.cfgErr = true ∨ t.status.cmdErr = true → OnlyCompletion s t) ∧
    ∀ sp k, writtenBelow i sp s ≤ k → readEntry t sp k = readEntry s sp k) ∧
  ∀ (s : State) (sp : Space),
    (∀ i ∈ [Instr.nop, .check, .xtrc], writtenBelow i sp s = 0) ∧
    (∀ n, writtenBelow (.mod n) sp s = if sp = .smpmem then n * s.spb.toNat else 0) ∧
    (∀ j, writtenBelow (.xfrm j) sp s = if sp = .specmem then 2 ^ s.wlog2.toNat / 2 + 1 else 0) ∧
    (writtenBelow .anlz sp s =
      if sp = .frmmem then frameCount s
      else if sp = .specmem ∧ frameCount s ≠ 0 then 2 ^ s.wlog2.toNat / 2 + 1
      else 0) ∧
    (writtenBelow .dec sp s = if sp = .rxmem then bitCount s else 0) ∧
    writtenBelow .demod sp s = max (writtenBelow .anlz sp s) (writtenBelow .dec sp s)

/-! ### Modulator (spec/40_modulator.md) -/

/-- R111, whole: MOD records every one of its six causes that holds, in that case writes no sample and keeps SLEN and
PHASE. -/
def Obligations.ModChecksBeforeAnySample : Prop :=
  ∀ (n : Nat) (s : State),
    ¬(TonesLegal s ∧ s.spb.toNat ≠ 0 ∧ n ≤ 65536 ∧ n * s.spb.toNat ≤ 65536) →
    ∃ t, exec (.mod n) s = .next t ∧ OnlyCompletion s t ∧ t.status.cfgErr = true ∧
      (t.cfgcause.fc0 = true ↔ s.fcenter.toNat = 0) ∧
      (t.cfgcause.fd0 = true ↔ s.fdev.toNat = 0) ∧
      (t.cfgcause.fdge = true ↔ s.fdev.toNat ≥ s.fcenter.toNat) ∧
      (t.cfgcause.nyq = true ↔ s.fcenter.toNat + s.fdev.toNat ≥ 2 ^ 31) ∧
      (t.cfgcause.spb0 = true ↔ s.spb.toNat = 0) ∧
      (t.cfgcause.cap = true ↔ n > 65536 ∨ n * s.spb.toNat > 65536) ∧
      t.cfgcause.wlog = false ∧ t.cfgcause.hop0 = false ∧ t.cfgcause.winspb = false ∧ t.cfgcause.band = false

/-- R112, R113, R115: where the checks pass and the first `n` bits are written, MOD completes; sample `k` is the ROM
entry at the top ten bits of the phase before it, the phase starting at 0 and advancing by the tone of the bit the
sample belongs to; PHASE and SLEN are those after the last sample; nothing else changes. -/
def Obligations.ModSynthesises : Prop :=
  ∀ (n : Nat) (s : State), TonesLegal s → s.spb.toNat ≠ 0 → n ≤ 65536 → n * s.spb.toNat ≤ 65536 →
    written s.txmem 0 n = true →
    let tone : Nat → Word := fun i =>
      if Memory.read s.txmem i = some 1 then s.fcenter + s.fdev else s.fcenter - s.fdev
    ∃ t, exec (.mod n) s = .next t ∧
      t = { s with
        smpmem := t.smpmem
        phase := phaseBefore tone s.spb.toNat (n * s.spb.toNat)
        slen := BitVec.ofNat 32 (n * s.spb.toNat)
        status := completed s.status false
        cfgcause := Causes.none } ∧
      (∀ k, k < n * s.spb.toNat → Memory.read t.smpmem k =
        some (BitVec.ofInt 16 (sinRom ((phaseBefore tone s.spb.toNat k).toNat / 2 ^ 22)))) ∧
      ∀ k, n * s.spb.toNat ≤ k → Memory.read t.smpmem k = Memory.read s.smpmem k

/-- R116, whole: the empty message gives the empty buffer and no error; the checks are still made. -/
def Obligations.ModEmptyInput : Prop :=
  ∀ s : State,
    (TonesLegal s → s.spb.toNat ≠ 0 → exec (.mod 0) s = .next { s with
      phase := 0, slen := 0, status := completed s.status false, cfgcause := Causes.none }) ∧
    (s.spb.toNat = 0 → ∃ t, exec (.mod 0) s = .next t ∧ OnlyCompletion s t ∧ t.status.cfgErr = true ∧
      t.cfgcause.spb0 = true)

/-- R117, whole: after a MOD that raised nothing SLEN is exactly `n × SPB`. -/
def Obligations.ModPreservesLength : Prop :=
  ∀ (n : Nat) (s t : State), exec (.mod n) s = .next t → t.status.cfgErr = false →
    t.slen.toNat = n * s.spb.toNat

/-- R114, whole: the sample of a phase is the ROM entry at its top ten bits, stored as 16-bit two's complement without
loss, and lies in -32767 to 32767. -/
def Obligations.SampleIsRomEntry : Prop :=
  ∀ p : Word, (sampleOf p).toInt = sinRom (p.toNat / 2 ^ 22) ∧
    -32767 ≤ (sampleOf p).toInt ∧ (sampleOf p).toInt ≤ 32767

/-- R45 and U2 (log entries 4 and 5): a command that passes its checks and meets an entry it reads that nothing has
written stops there, at the first such entry in the order in which it reads: MOD its bits, XFRM its samples, XTRC the
bins of its band and then, with INTERP = 1, the neighbours of the peak, ANLZ and DEMOD the samples frame by frame, DEC
the frames whose centre lies in a bit window. -/
def Obligations.UnwrittenReadsStop : Prop :=
  (∀ (n i : Nat) (s : State), judge (.mod n) s = .nothing → i < n → Memory.read s.txmem i = none →
    (∀ k, k < i → (Memory.read s.txmem k).isSome = true) →
    exec (.mod n) s = .fault (.unwrittenEntry .txmem i)) ∧
  (∀ (j i : Nat) (s : State), judge (.xfrm j) s = .nothing → i < 2 ^ s.wlog2.toNat →
    Memory.read s.smpmem (j * s.hop.toNat + i) = none →
    (∀ k, k < i → (Memory.read s.smpmem (j * s.hop.toNat + k)).isSome = true) →
    exec (.xfrm j) s = .fault (.unwrittenEntry .smpmem (j * s.hop.toNat + i))) ∧
  (∀ (i : Nat) (s : State), judge .xtrc s = .nothing → binLow s ≤ i → i ≤ binHigh s →
    Memory.read s.specmem i = none →
    (∀ k, binLow s ≤ k → k < i → (Memory.read s.specmem k).isSome = true) →
    exec .xtrc s = .fault (.unwrittenEntry .specmem i)) ∧
  (∀ (k : Nat) (b : Word) (s : State), judge .xtrc s = .nothing → s.ctrl.interp = true →
    written s.specmem (binLow s) (binHigh s + 1 - binLow s) = true → binLow s ≤ k → k ≤ binHigh s →
    Memory.read s.specmem k = some b →
    (∀ i v, binLow s ≤ i → i ≤ binHigh s → Memory.read s.specmem i = some v → v.toNat ≤ b.toNat) →
    (∀ i v, binLow s ≤ i → i < k → Memory.read s.specmem i = some v → v.toNat < b.toNat) →
    (Memory.read s.specmem (k - 1) = none → exec .xtrc s = .fault (.unwrittenEntry .specmem (k - 1))) ∧
    ((Memory.read s.specmem (k - 1)).isSome = true → Memory.read s.specmem (k + 1) = none →
      exec .xtrc s = .fault (.unwrittenEntry .specmem (k + 1)))) ∧
  (∀ i ∈ [Instr.anlz, .demod], ∀ (j n : Nat) (s : State), judge i s = .nothing → j < frameCount s →
    n < 2 ^ s.wlog2.toNat → Memory.read s.smpmem (j * s.hop.toNat + n) = none →
    (∀ k, k < n → (Memory.read s.smpmem (j * s.hop.toNat + k)).isSome = true) →
    (∀ l, l < j → written s.smpmem (l * s.hop.toNat) (2 ^ s.wlog2.toNat) = true) →
    exec i s = .fault (.unwrittenEntry .smpmem (j * s.hop.toNat + n))) ∧
  ∀ (j : Nat) (s : State), judge .dec s = .nothing → j < s.nfrm.toNat →
    j * s.hop.toNat + 2 ^ s.wlog2.toNat / 2 < bitCount s * s.spb.toNat → Memory.read s.frmmem j = none →
    (∀ k, k < j → (Memory.read s.frmmem k).isSome = true) →
    exec .dec s = .fault (.unwrittenEntry .frmmem j)

/-! ### Spectral transform (spec/41_spectral_transform.md) -/

/-- R50 to R52: the checks R50 gives on a transcription of the table, its symmetries, and the facts of R52. -/
def Obligations.SineRomFacts : Prop :=
  ((List.range 257).map quarter).sum = 5356550 ∧ quarter 128 = 23170 ∧ quarter 255 = 32766 ∧ quarter 256 = 32767 ∧
  ((List.range 512).map sinRom).sum = 10680333 ∧ ((List.range 1024).map sinRom).sum = 0 ∧
  (∀ i, i < 256 → sinRom i = quarter i ∧ sinRom (i + 256) = quarter (256 - i)) ∧
  (∀ i, i < 512 → sinRom (i + 512) = -sinRom i) ∧
  sinRom 0 = 0 ∧ sinRom 512 = 0 ∧ sinRom 256 = 32767 ∧ sinRom 768 = -32767 ∧
  cosRom 0 = 32767 ∧ cosRom 256 = 0 ∧ cosRom 512 = -32767 ∧ cosRom 768 = 0 ∧
  (∀ i, i < 1024 → cosRom i = sinRom ((i + 256) % 1024) ∧ -32767 ≤ sinRom i ∧ sinRom i ≤ 32767 ∧
    sinRom i * sinRom i + cosRom i * cosRom i < 32768 ^ 2) ∧
  (∀ i, 1 ≤ i → i ≤ 1023 → sinRom (1024 - i) = -sinRom i) ∧
  (∀ i, i ≤ 512 → sinRom (512 - i) = sinRom i) ∧
  ∀ i, i < 256 → quarter i < quarter (i + 1)

/-- R131, whole: the number of frames; frame `j` exists iff it lies wholly inside the buffer; its offset and centre. -/
def Obligations.FramesAreWholeWindows : Prop :=
  ∀ s : State, s.hop.toNat ≠ 0 →
    (s.slen.toNat < 2 ^ s.wlog2.toNat → frameCount s = 0) ∧
    (2 ^ s.wlog2.toNat ≤ s.slen.toNat →
      frameCount s = (s.slen.toNat - 2 ^ s.wlog2.toNat) / s.hop.toNat + 1) ∧
    ∀ j, (j < frameCount s ↔ j * s.hop.toNat + 2 ^ s.wlog2.toNat ≤ s.slen.toNat) ∧
      frameOffset s j = j * s.hop.toNat ∧ frameCentre s j = j * s.hop.toNat + 2 ^ s.wlog2.toNat / 2

/-- R132, whole: XFRM's configuration causes, and after them CommandError for a frame that does not exist; in both cases
SPECMEM and TOFF keep their values. -/
def Obligations.XfrmChecksBeforeTransform : Prop :=
  ∀ (j : Nat) (s : State),
    (¬(WindowLegal s ∧ s.hop.toNat ≠ 0 ∧ s.slen.toNat ≤ 65536) →
      ∃ t, exec (.xfrm j) s = .next t ∧ OnlyCompletion s t ∧ t.status.cfgErr = true ∧ t.status.cmdErr = false ∧
        (t.cfgcause.wlog = true ↔ s.wlog2.toNat < 3 ∨ s.wlog2.toNat > 10) ∧
        (t.cfgcause.hop0 = true ↔ s.hop.toNat = 0) ∧ (t.cfgcause.cap = true ↔ s.slen.toNat > 65536) ∧
        t.cfgcause = { Causes.none with
          wlog := t.cfgcause.wlog, hop0 := t.cfgcause.hop0, cap := t.cfgcause.cap }) ∧
    (WindowLegal s → s.hop.toNat ≠ 0 → s.slen.toNat ≤ 65536 → s.slen.toNat < j * s.hop.toNat + 2 ^ s.wlog2.toNat →
      exec (.xfrm j) s = .next { s with
        status := { s.status with busy := false, done := true, cfgErr := false, incomplete := false, cmdErr := true }
        cfgcause := Causes.none
        esticky := { s.esticky with cmdErr := true } })

/-- R133 and R134, whole: the periodic Hann window from the ROM, its range, its ends, its symmetry and the values the
rule lists; the windowed sample is the floor of `x[n] × HANN_W[n] / 2^15`, at most 32767 in magnitude for a 16-bit
sample. -/
def Obligations.HannWindowing : Prop :=
  (∀ m, 3 ≤ m → m ≤ 10 →
    (∀ n, n < 2 ^ m → hann m n = (32767 - cosRom (n * 2 ^ (10 - m))) / 2 ∧ 0 ≤ hann m n ∧ hann m n ≤ 32767) ∧
    hann m 0 = 0 ∧ hann m (2 ^ m / 2) = 32767 ∧
    ∀ n, 1 ≤ n → n ≤ 2 ^ m - 1 → hann m (2 ^ m - n) = hann m n) ∧
  (List.range 8).map (hann 3) = [0, 4798, 16383, 27968, 32767, 27968, 16383, 4798] ∧
  (List.range 5).map (hann 8) = [0, 5, 19, 44, 79] ∧
  ∀ (m n : Nat) (xs : List Int) (x : Int), 3 ≤ m → m ≤ 10 → n < 2 ^ m → xs[n]? = some x →
    (windowFrom m 0 xs)[n]? = some ((x * hann m n) / 32768) ∧
    (-32768 ≤ x → x ≤ 32767 → -32767 ≤ (x * hann m n) / 32768 ∧ (x * hann m n) / 32768 ≤ 32767)

/-- R135, the load: element `n` goes to place `bitrev_m(n)` with imaginary part 0. -/
def Obligations.LoadIsBitReversed : Prop :=
  ∀ (m n : Nat) (v : List Int), v.length = 2 ^ m → n < 2 ^ m →
    (fftLoad m v)[bitrev m n]? = some (v.getD n 0, 0)

/-- R135, the stages: stage `s` does to places `a = base + k` and `b = a + half` the butterfly of the rule, from the old
values, for every block base and every `k`; and the transform is the load followed by stages 1 to `m` in order. -/
def Obligations.StagesAreButterflies : Prop :=
  (∀ (s blocks r k : Nat) (xs : List (Int × Int)), 1 ≤ s → xs.length = blocks * 2 ^ s → r < blocks →
    k < 2 ^ (s - 1) →
    let a := r * 2 ^ s + k
    let b := a + 2 ^ (s - 1)
    let wr := cosRom (k * 2 ^ (10 - s))
    let wi := -sinRom (k * 2 ^ (10 - s))
    let za := xs.getD a (0, 0)
    let zb := xs.getD b (0, 0)
    let tr := (zb.1 * wr - zb.2 * wi) >>> 15
    let ti := (zb.1 * wi + zb.2 * wr) >>> 15
    (fftStage s blocks xs)[a]? = some (za.1 + tr, za.2 + ti) ∧
    (fftStage s blocks xs)[b]? = some (za.1 - tr, za.2 - ti)) ∧
  ∀ (m : Nat) (v : List Int),
    fft m v = (List.range m).foldl (fun xs i => fftStage (i + 1) (2 ^ (m - (i + 1))) xs) (fftLoad m v)

/-- R138: with windowed samples of at most 32767 in magnitude every component of the transform stays below 220374540
and every magnitude below 311656662, so the 32-bit entry of SPECMEM holds it exactly. -/
def Obligations.TransformBounds : Prop :=
  ∀ (m : Nat) (v : List Int), 3 ≤ m → m ≤ 10 → v.length = 2 ^ m → (∀ x ∈ v, -32767 ≤ x ∧ x ≤ 32767) →
    ∀ z ∈ fft m v, -220374540 < z.1 ∧ z.1 < 220374540 ∧ -220374540 < z.2 ∧ z.2 < 220374540 ∧
      magnitude z < 311656662 ∧ (BitVec.ofNat 32 (magnitude z)).toNat = magnitude z

/-- R6: `isqrt(n)` is the greatest `r` with `r × r ≤ n`. -/
def Obligations.SquareRootIsFloor : Prop :=
  ∀ n : Nat, isqrt n * isqrt n ≤ n ∧ ∀ r, r * r ≤ n → r ≤ isqrt n

/-- R136, R137: where the checks pass and the window's samples are written, XFRM completes; SPECMEM[0 .. W/2] is the
magnitude spectrum of the windowed samples, TOFF the frame's offset; nothing else changes. -/
def Obligations.XfrmCompletes : Prop :=
  ∀ (j : Nat) (s : State), WindowLegal s → s.hop.toNat ≠ 0 → s.slen.toNat ≤ 65536 →
    j * s.hop.toNat + 2 ^ s.wlog2.toNat ≤ s.slen.toNat →
    written s.smpmem (j * s.hop.toNat) (2 ^ s.wlog2.toNat) = true →
    ∃ (t : State) (xs : List (BitVec 16)), exec (.xfrm j) s = .next t ∧
      t = { s with
        specmem := t.specmem
        toff := BitVec.ofNat 32 (j * s.hop.toNat)
        status := completed s.status false
        cfgcause := Causes.none } ∧
      xs.length = 2 ^ s.wlog2.toNat ∧
      (∀ n, n < 2 ^ s.wlog2.toNat → Memory.read s.smpmem (j * s.hop.toNat + n) = xs[n]?) ∧
      (∀ k, k ≤ 2 ^ s.wlog2.toNat / 2 →
        let z := (fft s.wlog2.toNat (windowFrom s.wlog2.toNat 0 (xs.map BitVec.toInt))).getD k (0, 0)
        Memory.read t.specmem k = some (BitVec.ofNat 32 (isqrt (z.1 * z.1 + z.2 * z.2).toNat))) ∧
      ∀ k, 2 ^ s.wlog2.toNat / 2 < k → Memory.read t.specmem k = Memory.read s.specmem k

/-! ### Extractor (spec/42_frequency_extractor.md) -/

/-- R151: a bin is a candidate iff it is 1 to W/2 - 1 and its centre lies in the closed band `lo .. hi`, `lo` clamped at
0; at reset the candidates are bins 53 to 63. -/
def Obligations.BandIsClosed : Prop :=
  (∀ (s : State) (k : Nat), WindowLegal s →
    ((binLow s ≤ k ∧ k ≤ binHigh s) ↔
      1 ≤ k ∧ k ≤ 2 ^ s.wlog2.toNat / 2 - 1 ∧
      s.fcenter.toNat - s.fdev.toNat - s.fmargin.toNat ≤ k * 2 ^ (32 - s.wlog2.toNat) ∧
      k * 2 ^ (32 - s.wlog2.toNat) ≤ s.fcenter.toNat + s.fdev.toNat + s.fmargin.toNat)) ∧
  binLow State.reset = 53 ∧ binHigh State.reset = 63

/-- R152, whole: the peak is the least bin at which the magnitudes are greatest; with all of them 0 it is the first. -/
def Obligations.PeakIsLeastMaximum : Prop :=
  ∀ (kLo : Nat) (xs : List Nat), xs ≠ [] →
    kLo ≤ peakBin kLo xs ∧ peakBin kLo xs < kLo + xs.length ∧
    (∀ i, i < xs.length → xs.getD i 0 ≤ xs.getD (peakBin kLo xs - kLo) 0) ∧
    (∀ i, kLo + i < peakBin kLo xs → xs.getD i 0 < xs.getD (peakBin kLo xs - kLo) 0) ∧
    ((∀ x ∈ xs, x = 0) → peakBin kLo xs = kLo)

/-- R154, whole, with the bound of R153: the refinement is at most half a bin, so the frequency word lies strictly
between 0 and `2^31`, fits bits 30:0 and leaves VALID alone. -/
def Obligations.EstimateWithinHalfBin : Prop :=
  ∀ m k a b c : Nat, 3 ≤ m → m ≤ 10 → 1 ≤ k → k ≤ 2 ^ m / 2 - 1 →
    let delta := parabola m a b c
    let f : Int := k * 2 ^ (32 - m) + delta
    (-(2 ^ (31 - m)) : Int) ≤ delta ∧ delta ≤ 2 ^ (31 - m) ∧
    (2 : Int) ^ (31 - m) ≤ f ∧ f ≤ 2 ^ 31 - 2 ^ (31 - m) ∧
    ∀ valid : Bool, (frameWord valid f).getLsbD 31 = valid ∧ (((frameWord valid f).toNat % 2 ^ 31 : Nat) : Int) = f

/-- R152, R153, R155, R156: where the checks pass and the band's entries of SPECMEM are written, with the neighbours of
the band as well if INTERP = 1, XTRC completes; PEAK is the least bin of greatest magnitude in the band, PEAKMAG its
magnitude, FREQ the refined frequency word with VALID iff the magnitude reaches MTHRESH; nothing else changes. That with
INTERP = 0 the neighbours may be unwritten is the model's reading (log entry 5). -/
def Obligations.XtrcCompletes : Prop :=
  ∀ s : State, TonesLegal s → WindowLegal s → BandLegal s →
    written s.specmem (binLow s) (binHigh s + 1 - binLow s) = true →
    (s.ctrl.interp = true → written s.specmem (binLow s - 1) (binHigh s + 3 - binLow s) = true) →
    ∃ (t : State) (k : Nat) (b : Word) (delta : Int), exec .xtrc s = .next t ∧
      binLow s ≤ k ∧ k ≤ binHigh s ∧ Memory.read s.specmem k = some b ∧
      (∀ i v, binLow s ≤ i → i ≤ binHigh s → Memory.read s.specmem i = some v → v.toNat ≤ b.toNat) ∧
      (∀ i v, binLow s ≤ i → i < k → Memory.read s.specmem i = some v → v.toNat < b.toNat) ∧
      (s.ctrl.interp = false → delta = 0) ∧
      (s.ctrl.interp = true → ∃ a c : Word,
        Memory.read s.specmem (k - 1) = some a ∧ Memory.read s.specmem (k + 1) = some c ∧
        (let d : Int := 2 * (b.toNat : Int) - a.toNat - c.toNat
         (a.toNat ≤ b.toNat ∧ c.toNat ≤ b.toNat ∧ 0 < d →
           delta = Int.tdiv (((c.toNat : Int) - a.toNat) * 2 ^ (31 - s.wlog2.toNat)) d) ∧
         (¬(a.toNat ≤ b.toNat ∧ c.toNat ≤ b.toNat ∧ 0 < d) → delta = 0))) ∧
      t = { s with
        peak := BitVec.ofNat 10 k
        peakmag := b
        freq := frameWord (decide (s.mthresh.toNat ≤ b.toNat)) (k * 2 ^ (32 - s.wlog2.toNat) + delta)
        status := completed s.status false
        cfgcause := Causes.none }

/-- R157: where the checks pass and the samples of every frame are written, ANLZ completes; FRMMEM[j] is the FREQ that
XFRM j followed by XTRC gives, for each frame; NFRM is their number; SPECMEM, TOFF, PEAK, PEAKMAG and FREQ are those of
the last frame; nothing else changes. -/
def Obligations.AnlzCompletes : Prop :=
  ∀ s : State, AllLegal s → s.slen.toNat ≤ 65536 →
    (∀ j, j < frameCount s → written s.smpmem (j * s.hop.toNat) (2 ^ s.wlog2.toNat) = true) →
    ∃ t, exec .anlz s = .next t ∧
      t = { s with
        specmem := t.specmem, toff := t.toff, peak := t.peak, peakmag := t.peakmag, freq := t.freq
        frmmem := t.frmmem
        nfrm := BitVec.ofNat 32 (frameCount s)
        status := completed s.status false
        cfgcause := Causes.none } ∧
      (∀ j, j < frameCount s → ∃ u v, exec (.xfrm j) s = .next u ∧ exec .xtrc u = .next v ∧
        Memory.read t.frmmem j = some v.freq ∧
        (j + 1 = frameCount s → t.toff = v.toff ∧ t.peak = v.peak ∧ t.peakmag = v.peakmag ∧ t.freq = v.freq ∧
          ∀ k, Memory.read t.specmem k = Memory.read v.specmem k)) ∧
      (∀ j, frameCount s ≤ j → Memory.read t.frmmem j = Memory.read s.frmmem j) ∧
      (frameCount s = 0 → t.specmem = s.specmem ∧ t.toff = s.toff ∧ t.peak = s.peak ∧ t.peakmag = s.peakmag ∧
        t.freq = s.freq ∧ t.frmmem = s.frmmem)

/-- R158, whole: a buffer shorter than one window gives no frame and no error, and only NFRM is written. -/
def Obligations.AnlzShortBuffer : Prop :=
  ∀ s : State, AllLegal s → s.slen.toNat < 2 ^ s.wlog2.toNat →
    2 ^ s.wlog2.toNat ≤ s.spb.toNat ∧
    exec .anlz s = .next { s with nfrm := 0, status := completed s.status false, cfgcause := Causes.none }

/-! ### Decoder (spec/43_decoder.md) -/

/-- R171, whole: every started bit window counts; there is none iff the buffer is empty; the windows are consecutive,
disjoint, `SPB` long and anchored at sample 0. -/
def Obligations.BitPositions : Prop :=
  ∀ s : State, s.spb.toNat ≠ 0 →
    bitCount s = (s.slen.toNat + s.spb.toNat - 1) / s.spb.toNat ∧
    (bitCount s = 0 ↔ s.slen.toNat = 0) ∧
    (∀ b, b < bitCount s ↔ b * s.spb.toNat < s.slen.toNat) ∧
    ∀ t, t < s.slen.toNat → ∃! b, b < bitCount s ∧ b * s.spb.toNat ≤ t ∧ t < (b + 1) * s.spb.toNat

/-- R172, whole: the frames of bit window `b` are those below NFRM whose centre it contains, each frame in at most one
window, a centre past the last window in none, and an invalid frame never counts. -/
def Obligations.FrameMembership : Prop :=
  ∀ (s : State) (b j : Nat), s.spb.toNat ≠ 0 →
    (j ∈ framesInWindow s b ↔ j < s.nfrm.toNat ∧
      b * s.spb.toNat ≤ j * s.hop.toNat + 2 ^ s.wlog2.toNat / 2 ∧
      j * s.hop.toNat + 2 ^ s.wlog2.toNat / 2 < (b + 1) * s.spb.toNat) ∧
    (j ∈ framesInWindow s b ↔ j < s.nfrm.toNat ∧
      b = (j * s.hop.toNat + 2 ^ s.wlog2.toNat / 2) / s.spb.toNat) ∧
    (bitCount s * s.spb.toNat ≤ j * s.hop.toNat + 2 ^ s.wlog2.toNat / 2 → b < bitCount s →
      j ∉ framesInWindow s b) ∧
    (s.hop.toNat ≠ 0 → j < frameCount s → frameCentre s j < s.slen.toNat) ∧
    ∀ (fc : Nat) (frames : List Word), classify fc frames = classify fc (frames.filter fun w => w.getLsbD 31)

/-- R173 to R176: where the checks pass and the frames below NFRM are written, DEC completes; each RXMEM entry is the
classifier's answer for the valid frames of its window, 2 where there is none; NBITS, ERRCNT, ERRPOS and INCOMPLETE say
how many positions there are, how many are incomplete, which is the first; nothing else changes. -/
def Obligations.DecCompletes : Prop :=
  ∀ s : State, AllLegal s → s.slen.toNat ≤ 65536 → s.nfrm.toNat ≤ 65536 → written s.frmmem 0 s.nfrm.toNat = true →
    let bad := (List.range (bitCount s)).filter fun b => bitCode s b == 2
    ∃ t, exec .dec s = .next t ∧
      t = { s with
        rxmem := t.rxmem
        nbits := BitVec.ofNat 32 (bitCount s)
        errcnt := BitVec.ofNat 32 bad.length
        errpos := match bad with
          | [] => 0xFFFFFFFF
          | b :: _ => BitVec.ofNat 32 b
        status := completed s.status (decide (0 < bad.length))
        cfgcause := Causes.none
        esticky := { s.esticky with incomplete := s.esticky.incomplete || decide (0 < bad.length) } } ∧
      (∀ b, b < bitCount s → Memory.read t.rxmem b = some (bitCode s b)) ∧
      ∀ b, bitCount s ≤ b → Memory.read t.rxmem b = Memory.read s.rxmem b

/-- R174: a window whose valid frames all stand exactly at F1 gives 1, exactly at F0 gives 0, exactly at the midpoint
gives 0. -/
def Obligations.TonesClassifyAsTheirBits : Prop :=
  ∀ (s : State) (n : Nat), TonesLegal s → 0 < n →
    classify s.fcenter.toNat (List.replicate n (0x80000000 ||| toneOne s)) = 1 ∧
    classify s.fcenter.toNat (List.replicate n (0x80000000 ||| toneZero s)) = 0 ∧
    classify s.fcenter.toNat (List.replicate n (0x80000000 ||| s.fcenter)) = 0

/-- R177: DEMOD is ANLZ followed by DEC: where DEMOD's checks pass and ANLZ answers a next state, DEMOD answers what DEC
answers from there; and where the samples of every frame are written all three complete. -/
def Obligations.DemodIsAnlzThenDec : Prop :=
  (∀ s u : State, AllLegal s → s.slen.toNat ≤ 65536 → exec .anlz s = .next u → exec .demod s = exec .dec u) ∧
  ∀ s : State, AllLegal s → s.slen.toNat ≤ 65536 →
    (∀ j, j < frameCount s → written s.smpmem (j * s.hop.toNat) (2 ^ s.wlog2.toNat) = true) →
    ∃ u t, exec .anlz s = .next u ∧ exec .dec u = .next t ∧ exec .demod s = .next t ∧
      t = { s with
        specmem := t.specmem, toff := t.toff, peak := t.peak, peakmag := t.peakmag, freq := t.freq
        frmmem := t.frmmem
        nfrm := BitVec.ofNat 32 (frameCount s)
        rxmem := t.rxmem
        nbits := BitVec.ofNat 32 (bitCount s)
        errcnt := t.errcnt
        errpos := t.errpos
        status := completed s.status (decide (0 < t.errcnt.toNat))
        cfgcause := Causes.none
        esticky := { s.esticky with incomplete := s.esticky.incomplete || decide (0 < t.errcnt.toNat) } }

/-- R178, whole: the empty buffer decodes to the empty message without error, by DEMOD and by ANLZ then DEC. -/
def Obligations.EmptyBufferDecodesToNothing : Prop :=
  ∀ s : State, AllLegal s → s.slen.toNat = 0 →
    exec .demod s = .next { s with
      nfrm := 0, nbits := 0, errcnt := 0, errpos := 0xFFFFFFFF
      status := completed s.status false, cfgcause := Causes.none } ∧
    ∃ u, exec .anlz s = .next u ∧ exec .dec u = .next { s with
      nfrm := 0, nbits := 0, errcnt := 0, errpos := 0xFFFFFFFF
      status := completed s.status false, cfgcause := Causes.none }

/-! ### Reset (spec/70_reset_and_hazards.md) -/

/-- R230 with R45: every register takes its reset value, the latch is discarded (what it held leaves no trace), `irq` is
low; no memory is written, and no entry holds a specified value. That the turns to come, the word last read and the
count of draws stay, and that an unspecified entry is an unwritten one, is the model's (log entry 8). -/
def Obligations.ResetEvent : Prop :=
  ∀ s : State,
    (∃ c : Word, hardReset s = { State.reset with
      cmdlatch := c, turns := s.turns, rdata := s.rdata, draws := s.draws }) ∧
    (∀ c : Word, hardReset { s with cmdlatch := c } = hardReset s) ∧
    irq (hardReset s) = false ∧
    (∀ sp i, readEntry (hardReset s) sp i = none) ∧
    ∀ rest, s.turns = .reset :: rest → step s = .next (hardReset { s with turns := rest })

/-- R231 and R232: whatever was pending at a reset (a command, one that fails its checks, an illegal word), nothing runs
after it until the host writes CMD: however many steps follow, BUSY and DONE stay 0, every result register keeps its
reset value, and the only entries that hold values are ones the host has written. That every entry, those the command
could have written among them, is unwritten right after the reset is R45 in the form of log entry 8; the turns are those
of log entry 1. -/
def Obligations.ResetAbandonsCommand : Prop :=
  ∀ s : State,
    (∀ sp k, readEntry (hardReset s) sp k = none) ∧
    ((∀ d, Turn.write 0x08 d ∉ s.turns) → ∀ k, ∃ t : State, Host.Core.run core k (hardReset s) = .next t ∧
      t.status.busy = false ∧ t.status.done = false ∧ t.status.cfgErr = false ∧ t.status.incomplete = false ∧
      t.status.cmdErr = false ∧ t.cfgcause = Causes.none ∧ t.phase = 0 ∧ t.toff = 0 ∧ t.peak = 0 ∧ t.peakmag = 0 ∧
      t.freq = 0 ∧ t.nbits = 0 ∧ t.errcnt = 0 ∧ t.errpos = 0xFFFFFFFF ∧
      ∀ sp n v, readEntry t sp n = some v → ∃ a d, Turn.write a d ∈ s.turns ∧ targetOf a = .entry sp n)

/-! ### Whole-machine rules -/

/-- The state after reset satisfies the invariant. -/
def Obligations.ResetSatisfiesInv : Prop := Inv State.reset

/-- Every step, host transaction, CORE step or reset, keeps the invariant. -/
def Obligations.StepKeepsInv : Prop :=
  ∀ s t : State, Inv s → step s = .next t → Inv t

/-- R190, R241: a pending command does not stay pending: within as many steps as there are turns listed and one more it
has completed, been reset or stopped on an unwritten entry. R241 gives no bound: the bound is that of the model's turns
(log entry 1), and the stop is log entry 4's. -/
def Obligations.PendingCommandEnds : Prop :=
  ∀ s : State, s.status.busy = true →
    ∃ k, k ≤ s.turns.length + 1 ∧
      ((∃ t, Host.Core.run core k s = .next t ∧ t.status.busy = false) ∨ ∃ f, Host.Core.run core k s = .fault f)

/-- R66, R76, R78: nothing the host does while a command is pending changes what the command does. After any one host
transaction CORE's turn gives what it would have given without it, but for the transaction's own traces: BUSYERR and
ADDRERR, and the model's own `rdata` and `draws`. -/
def Obligations.HostCannotDisturbPendingCommand : Prop :=
  ∀ (s : State) (h : Turn) (rest : List Turn), s.status.busy = true → h ≠ .core → h ≠ .reset →
    ∃ s1, step { s with turns := h :: rest } = .next s1 ∧
      coreTurn s1 =
        match coreTurn { s with turns := rest } with
        | .next t => .next { t with
            esticky := { t.esticky with busyErr := s1.esticky.busyErr, addrErr := s1.esticky.addrErr }
            rdata := s1.rdata
            draws := s1.draws }
        | .fault f => .fault f
        | .refused r => .refused r
end

