-- ==== Sys2Proof/Laws/State.lean ====
section
/-! SUPPORT. What each named operation on State does to each field: one lemma per field, by `rfl`. -/

namespace Sys2Proof.Machine

variable (s : State)

/-! `State.accept` changes `status`, `cfgcause`, `cmdlatch` and nothing else. -/

@[simp] theorem State.accept_status (c : Word) :
    (s.accept c).status = ⟨true, false, false, false, false, c.extractLsb' 24 8⟩ := rfl
@[simp] theorem State.accept_cfgcause (c : Word) : (s.accept c).cfgcause = Causes.none := rfl
@[simp] theorem State.accept_esticky (c : Word) : (s.accept c).esticky = s.esticky := rfl
@[simp] theorem State.accept_ctrl (c : Word) : (s.accept c).ctrl = s.ctrl := rfl
@[simp] theorem State.accept_fcenter (c : Word) : (s.accept c).fcenter = s.fcenter := rfl
@[simp] theorem State.accept_fdev (c : Word) : (s.accept c).fdev = s.fdev := rfl
@[simp] theorem State.accept_fmargin (c : Word) : (s.accept c).fmargin = s.fmargin := rfl
@[simp] theorem State.accept_spb (c : Word) : (s.accept c).spb = s.spb := rfl
@[simp] theorem State.accept_wlog2 (c : Word) : (s.accept c).wlog2 = s.wlog2 := rfl
@[simp] theorem State.accept_hop (c : Word) : (s.accept c).hop = s.hop := rfl
@[simp] theorem State.accept_mthresh (c : Word) : (s.accept c).mthresh = s.mthresh := rfl
@[simp] theorem State.accept_slen (c : Word) : (s.accept c).slen = s.slen := rfl
@[simp] theorem State.accept_nfrm (c : Word) : (s.accept c).nfrm = s.nfrm := rfl
@[simp] theorem State.accept_phase (c : Word) : (s.accept c).phase = s.phase := rfl
@[simp] theorem State.accept_toff (c : Word) : (s.accept c).toff = s.toff := rfl
@[simp] theorem State.accept_peak (c : Word) : (s.accept c).peak = s.peak := rfl
@[simp] theorem State.accept_peakmag (c : Word) : (s.accept c).peakmag = s.peakmag := rfl
@[simp] theorem State.accept_freq (c : Word) : (s.accept c).freq = s.freq := rfl
@[simp] theorem State.accept_nbits (c : Word) : (s.accept c).nbits = s.nbits := rfl
@[simp] theorem State.accept_errcnt (c : Word) : (s.accept c).errcnt = s.errcnt := rfl
@[simp] theorem State.accept_errpos (c : Word) : (s.accept c).errpos = s.errpos := rfl
@[simp] theorem State.accept_cmdlatch (c : Word) : (s.accept c).cmdlatch = c := rfl
@[simp] theorem State.accept_smpmem (c : Word) : (s.accept c).smpmem = s.smpmem := rfl
@[simp] theorem State.accept_txmem (c : Word) : (s.accept c).txmem = s.txmem := rfl
@[simp] theorem State.accept_rxmem (c : Word) : (s.accept c).rxmem = s.rxmem := rfl
@[simp] theorem State.accept_frmmem (c : Word) : (s.accept c).frmmem = s.frmmem := rfl
@[simp] theorem State.accept_specmem (c : Word) : (s.accept c).specmem = s.specmem := rfl
@[simp] theorem State.accept_turns (c : Word) : (s.accept c).turns = s.turns := rfl
@[simp] theorem State.accept_rdata (c : Word) : (s.accept c).rdata = s.rdata := rfl
@[simp] theorem State.accept_draws (c : Word) : (s.accept c).draws = s.draws := rfl

/-! `State.complete` changes `status`, `cfgcause`, `esticky` and nothing else. -/

@[simp] theorem State.complete_status (r : Raised) (b : Bool) :
    (s.complete r b).status = ⟨false, true, r.isConfiguration, b, r.isCommand, s.status.lastOp⟩ := rfl
@[simp] theorem State.complete_cfgcause (r : Raised) (b : Bool) : (s.complete r b).cfgcause = r.causes := rfl
@[simp] theorem State.complete_esticky (r : Raised) (b : Bool) :
    (s.complete r b).esticky = ⟨s.esticky.cfgErr || r.isConfiguration, s.esticky.incomplete || b,
      s.esticky.cmdErr || r.isCommand, s.esticky.fmtErr, s.esticky.busyErr, s.esticky.addrErr⟩ := rfl
@[simp] theorem State.complete_ctrl (r : Raised) (b : Bool) : (s.complete r b).ctrl = s.ctrl := rfl
@[simp] theorem State.complete_fcenter (r : Raised) (b : Bool) : (s.complete r b).fcenter = s.fcenter := rfl
@[simp] theorem State.complete_fdev (r : Raised) (b : Bool) : (s.complete r b).fdev = s.fdev := rfl
@[simp] theorem State.complete_fmargin (r : Raised) (b : Bool) : (s.complete r b).fmargin = s.fmargin := rfl
@[simp] theorem State.complete_spb (r : Raised) (b : Bool) : (s.complete r b).spb = s.spb := rfl
@[simp] theorem State.complete_wlog2 (r : Raised) (b : Bool) : (s.complete r b).wlog2 = s.wlog2 := rfl
@[simp] theorem State.complete_hop (r : Raised) (b : Bool) : (s.complete r b).hop = s.hop := rfl
@[simp] theorem State.complete_mthresh (r : Raised) (b : Bool) : (s.complete r b).mthresh = s.mthresh := rfl
@[simp] theorem State.complete_slen (r : Raised) (b : Bool) : (s.complete r b).slen = s.slen := rfl
@[simp] theorem State.complete_nfrm (r : Raised) (b : Bool) : (s.complete r b).nfrm = s.nfrm := rfl
@[simp] theorem State.complete_phase (r : Raised) (b : Bool) : (s.complete r b).phase = s.phase := rfl
@[simp] theorem State.complete_toff (r : Raised) (b : Bool) : (s.complete r b).toff = s.toff := rfl
@[simp] theorem State.complete_peak (r : Raised) (b : Bool) : (s.complete r b).peak = s.peak := rfl
@[simp] theorem State.complete_peakmag (r : Raised) (b : Bool) : (s.complete r b).peakmag = s.peakmag := rfl
@[simp] theorem State.complete_freq (r : Raised) (b : Bool) : (s.complete r b).freq = s.freq := rfl
@[simp] theorem State.complete_nbits (r : Raised) (b : Bool) : (s.complete r b).nbits = s.nbits := rfl
@[simp] theorem State.complete_errcnt (r : Raised) (b : Bool) : (s.complete r b).errcnt = s.errcnt := rfl
@[simp] theorem State.complete_errpos (r : Raised) (b : Bool) : (s.complete r b).errpos = s.errpos := rfl
@[simp] theorem State.complete_cmdlatch (r : Raised) (b : Bool) : (s.complete r b).cmdlatch = s.cmdlatch := rfl
@[simp] theorem State.complete_smpmem (r : Raised) (b : Bool) : (s.complete r b).smpmem = s.smpmem := rfl
@[simp] theorem State.complete_txmem (r : Raised) (b : Bool) : (s.complete r b).txmem = s.txmem := rfl
@[simp] theorem State.complete_rxmem (r : Raised) (b : Bool) : (s.complete r b).rxmem = s.rxmem := rfl
@[simp] theorem State.complete_frmmem (r : Raised) (b : Bool) : (s.complete r b).frmmem = s.frmmem := rfl
@[simp] theorem State.complete_specmem (r : Raised) (b : Bool) : (s.complete r b).specmem = s.specmem := rfl
@[simp] theorem State.complete_turns (r : Raised) (b : Bool) : (s.complete r b).turns = s.turns := rfl
@[simp] theorem State.complete_rdata (r : Raised) (b : Bool) : (s.complete r b).rdata = s.rdata := rfl
@[simp] theorem State.complete_draws (r : Raised) (b : Bool) : (s.complete r b).draws = s.draws := rfl

/-! `State.acknowledgeDone` changes `status` and nothing else. -/

@[simp] theorem State.acknowledgeDone_status (d : Word) :
    (s.acknowledgeDone d).status = { s.status with done := s.status.done && !d.getLsbD 1 } := rfl
@[simp] theorem State.acknowledgeDone_cfgcause (d : Word) : (s.acknowledgeDone d).cfgcause = s.cfgcause := rfl
@[simp] theorem State.acknowledgeDone_esticky (d : Word) : (s.acknowledgeDone d).esticky = s.esticky := rfl
@[simp] theorem State.acknowledgeDone_ctrl (d : Word) : (s.acknowledgeDone d).ctrl = s.ctrl := rfl
@[simp] theorem State.acknowledgeDone_fcenter (d : Word) : (s.acknowledgeDone d).fcenter = s.fcenter := rfl
@[simp] theorem State.acknowledgeDone_fdev (d : Word) : (s.acknowledgeDone d).fdev = s.fdev := rfl
@[simp] theorem State.acknowledgeDone_fmargin (d : Word) : (s.acknowledgeDone d).fmargin = s.fmargin := rfl
@[simp] theorem State.acknowledgeDone_spb (d : Word) : (s.acknowledgeDone d).spb = s.spb := rfl
@[simp] theorem State.acknowledgeDone_wlog2 (d : Word) : (s.acknowledgeDone d).wlog2 = s.wlog2 := rfl
@[simp] theorem State.acknowledgeDone_hop (d : Word) : (s.acknowledgeDone d).hop = s.hop := rfl
@[simp] theorem State.acknowledgeDone_mthresh (d : Word) : (s.acknowledgeDone d).mthresh = s.mthresh := rfl
@[simp] theorem State.acknowledgeDone_slen (d : Word) : (s.acknowledgeDone d).slen = s.slen := rfl
@[simp] theorem State.acknowledgeDone_nfrm (d : Word) : (s.acknowledgeDone d).nfrm = s.nfrm := rfl
@[simp] theorem State.acknowledgeDone_phase (d : Word) : (s.acknowledgeDone d).phase = s.phase := rfl
@[simp] theorem State.acknowledgeDone_toff (d : Word) : (s.acknowledgeDone d).toff = s.toff := rfl
@[simp] theorem State.acknowledgeDone_peak (d : Word) : (s.acknowledgeDone d).peak = s.peak := rfl
@[simp] theorem State.acknowledgeDone_peakmag (d : Word) : (s.acknowledgeDone d).peakmag = s.peakmag := rfl
@[simp] theorem State.acknowledgeDone_freq (d : Word) : (s.acknowledgeDone d).freq = s.freq := rfl
@[simp] theorem State.acknowledgeDone_nbits (d : Word) : (s.acknowledgeDone d).nbits = s.nbits := rfl
@[simp] theorem State.acknowledgeDone_errcnt (d : Word) : (s.acknowledgeDone d).errcnt = s.errcnt := rfl
@[simp] theorem State.acknowledgeDone_errpos (d : Word) : (s.acknowledgeDone d).errpos = s.errpos := rfl
@[simp] theorem State.acknowledgeDone_cmdlatch (d : Word) : (s.acknowledgeDone d).cmdlatch = s.cmdlatch := rfl
@[simp] theorem State.acknowledgeDone_smpmem (d : Word) : (s.acknowledgeDone d).smpmem = s.smpmem := rfl
@[simp] theorem State.acknowledgeDone_txmem (d : Word) : (s.acknowledgeDone d).txmem = s.txmem := rfl
@[simp] theorem State.acknowledgeDone_rxmem (d : Word) : (s.acknowledgeDone d).rxmem = s.rxmem := rfl
@[simp] theorem State.acknowledgeDone_frmmem (d : Word) : (s.acknowledgeDone d).frmmem = s.frmmem := rfl
@[simp] theorem State.acknowledgeDone_specmem (d : Word) : (s.acknowledgeDone d).specmem = s.specmem := rfl
@[simp] theorem State.acknowledgeDone_turns (d : Word) : (s.acknowledgeDone d).turns = s.turns := rfl
@[simp] theorem State.acknowledgeDone_rdata (d : Word) : (s.acknowledgeDone d).rdata = s.rdata := rfl
@[simp] theorem State.acknowledgeDone_draws (d : Word) : (s.acknowledgeDone d).draws = s.draws := rfl

/-! `State.clearSticky` changes `esticky` and nothing else. -/

@[simp] theorem State.clearSticky_status (d : Word) : (s.clearSticky d).status = s.status := rfl
@[simp] theorem State.clearSticky_cfgcause (d : Word) : (s.clearSticky d).cfgcause = s.cfgcause := rfl
@[simp] theorem State.clearSticky_esticky (d : Word) :
    (s.clearSticky d).esticky = ⟨s.esticky.cfgErr && !d.getLsbD 0, s.esticky.incomplete && !d.getLsbD 1,
      s.esticky.cmdErr && !d.getLsbD 2, s.esticky.fmtErr && !d.getLsbD 3, s.esticky.busyErr && !d.getLsbD 4,
      s.esticky.addrErr && !d.getLsbD 5⟩ := rfl
@[simp] theorem State.clearSticky_ctrl (d : Word) : (s.clearSticky d).ctrl = s.ctrl := rfl
@[simp] theorem State.clearSticky_fcenter (d : Word) : (s.clearSticky d).fcenter = s.fcenter := rfl
@[simp] theorem State.clearSticky_fdev (d : Word) : (s.clearSticky d).fdev = s.fdev := rfl
@[simp] theorem State.clearSticky_fmargin (d : Word) : (s.clearSticky d).fmargin = s.fmargin := rfl
@[simp] theorem State.clearSticky_spb (d : Word) : (s.clearSticky d).spb = s.spb := rfl
@[simp] theorem State.clearSticky_wlog2 (d : Word) : (s.clearSticky d).wlog2 = s.wlog2 := rfl
@[simp] theorem State.clearSticky_hop (d : Word) : (s.clearSticky d).hop = s.hop := rfl
@[simp] theorem State.clearSticky_mthresh (d : Word) : (s.clearSticky d).mthresh = s.mthresh := rfl
@[simp] theorem State.clearSticky_slen (d : Word) : (s.clearSticky d).slen = s.slen := rfl
@[simp] theorem State.clearSticky_nfrm (d : Word) : (s.clearSticky d).nfrm = s.nfrm := rfl
@[simp] theorem State.clearSticky_phase (d : Word) : (s.clearSticky d).phase = s.phase := rfl
@[simp] theorem State.clearSticky_toff (d : Word) : (s.clearSticky d).toff = s.toff := rfl
@[simp] theorem State.clearSticky_peak (d : Word) : (s.clearSticky d).peak = s.peak := rfl
@[simp] theorem State.clearSticky_peakmag (d : Word) : (s.clearSticky d).peakmag = s.peakmag := rfl
@[simp] theorem State.clearSticky_freq (d : Word) : (s.clearSticky d).freq = s.freq := rfl
@[simp] theorem State.clearSticky_nbits (d : Word) : (s.clearSticky d).nbits = s.nbits := rfl
@[simp] theorem State.clearSticky_errcnt (d : Word) : (s.clearSticky d).errcnt = s.errcnt := rfl
@[simp] theorem State.clearSticky_errpos (d : Word) : (s.clearSticky d).errpos = s.errpos := rfl
@[simp] theorem State.clearSticky_cmdlatch (d : Word) : (s.clearSticky d).cmdlatch = s.cmdlatch := rfl
@[simp] theorem State.clearSticky_smpmem (d : Word) : (s.clearSticky d).smpmem = s.smpmem := rfl
@[simp] theorem State.clearSticky_txmem (d : Word) : (s.clearSticky d).txmem = s.txmem := rfl
@[simp] theorem State.clearSticky_rxmem (d : Word) : (s.clearSticky d).rxmem = s.rxmem := rfl
@[simp] theorem State.clearSticky_frmmem (d : Word) : (s.clearSticky d).frmmem = s.frmmem := rfl
@[simp] theorem State.clearSticky_specmem (d : Word) : (s.clearSticky d).specmem = s.specmem := rfl
@[simp] theorem State.clearSticky_turns (d : Word) : (s.clearSticky d).turns = s.turns := rfl
@[simp] theorem State.clearSticky_rdata (d : Word) : (s.clearSticky d).rdata = s.rdata := rfl
@[simp] theorem State.clearSticky_draws (d : Word) : (s.clearSticky d).draws = s.draws := rfl

/-! `State.raiseFormat` changes `esticky` and nothing else. -/

@[simp] theorem State.raiseFormat_status : (s.raiseFormat).status = s.status := rfl
@[simp] theorem State.raiseFormat_cfgcause : (s.raiseFormat).cfgcause = s.cfgcause := rfl
@[simp] theorem State.raiseFormat_esticky : (s.raiseFormat).esticky = { s.esticky with fmtErr := true } := rfl
@[simp] theorem State.raiseFormat_ctrl : (s.raiseFormat).ctrl = s.ctrl := rfl
@[simp] theorem State.raiseFormat_fcenter : (s.raiseFormat).fcenter = s.fcenter := rfl
@[simp] theorem State.raiseFormat_fdev : (s.raiseFormat).fdev = s.fdev := rfl
@[simp] theorem State.raiseFormat_fmargin : (s.raiseFormat).fmargin = s.fmargin := rfl
@[simp] theorem State.raiseFormat_spb : (s.raiseFormat).spb = s.spb := rfl
@[simp] theorem State.raiseFormat_wlog2 : (s.raiseFormat).wlog2 = s.wlog2 := rfl
@[simp] theorem State.raiseFormat_hop : (s.raiseFormat).hop = s.hop := rfl
@[simp] theorem State.raiseFormat_mthresh : (s.raiseFormat).mthresh = s.mthresh := rfl
@[simp] theorem State.raiseFormat_slen : (s.raiseFormat).slen = s.slen := rfl
@[simp] theorem State.raiseFormat_nfrm : (s.raiseFormat).nfrm = s.nfrm := rfl
@[simp] theorem State.raiseFormat_phase : (s.raiseFormat).phase = s.phase := rfl
@[simp] theorem State.raiseFormat_toff : (s.raiseFormat).toff = s.toff := rfl
@[simp] theorem State.raiseFormat_peak : (s.raiseFormat).peak = s.peak := rfl
@[simp] theorem State.raiseFormat_peakmag : (s.raiseFormat).peakmag = s.peakmag := rfl
@[simp] theorem State.raiseFormat_freq : (s.raiseFormat).freq = s.freq := rfl
@[simp] theorem State.raiseFormat_nbits : (s.raiseFormat).nbits = s.nbits := rfl
@[simp] theorem State.raiseFormat_errcnt : (s.raiseFormat).errcnt = s.errcnt := rfl
@[simp] theorem State.raiseFormat_errpos : (s.raiseFormat).errpos = s.errpos := rfl
@[simp] theorem State.raiseFormat_cmdlatch : (s.raiseFormat).cmdlatch = s.cmdlatch := rfl
@[simp] theorem State.raiseFormat_smpmem : (s.raiseFormat).smpmem = s.smpmem := rfl
@[simp] theorem State.raiseFormat_txmem : (s.raiseFormat).txmem = s.txmem := rfl
@[simp] theorem State.raiseFormat_rxmem : (s.raiseFormat).rxmem = s.rxmem := rfl
@[simp] theorem State.raiseFormat_frmmem : (s.raiseFormat).frmmem = s.frmmem := rfl
@[simp] theorem State.raiseFormat_specmem : (s.raiseFormat).specmem = s.specmem := rfl
@[simp] theorem State.raiseFormat_turns : (s.raiseFormat).turns = s.turns := rfl
@[simp] theorem State.raiseFormat_rdata : (s.raiseFormat).rdata = s.rdata := rfl
@[simp] theorem State.raiseFormat_draws : (s.raiseFormat).draws = s.draws := rfl

/-! `State.raiseBusy` changes `esticky` and nothing else. -/

@[simp] theorem State.raiseBusy_status : (s.raiseBusy).status = s.status := rfl
@[simp] theorem State.raiseBusy_cfgcause : (s.raiseBusy).cfgcause = s.cfgcause := rfl
@[simp] theorem State.raiseBusy_esticky : (s.raiseBusy).esticky = { s.esticky with busyErr := true } := rfl
@[simp] theorem State.raiseBusy_ctrl : (s.raiseBusy).ctrl = s.ctrl := rfl
@[simp] theorem State.raiseBusy_fcenter : (s.raiseBusy).fcenter = s.fcenter := rfl
@[simp] theorem State.raiseBusy_fdev : (s.raiseBusy).fdev = s.fdev := rfl
@[simp] theorem State.raiseBusy_fmargin : (s.raiseBusy).fmargin = s.fmargin := rfl
@[simp] theorem State.raiseBusy_spb : (s.raiseBusy).spb = s.spb := rfl
@[simp] theorem State.raiseBusy_wlog2 : (s.raiseBusy).wlog2 = s.wlog2 := rfl
@[simp] theorem State.raiseBusy_hop : (s.raiseBusy).hop = s.hop := rfl
@[simp] theorem State.raiseBusy_mthresh : (s.raiseBusy).mthresh = s.mthresh := rfl
@[simp] theorem State.raiseBusy_slen : (s.raiseBusy).slen = s.slen := rfl
@[simp] theorem State.raiseBusy_nfrm : (s.raiseBusy).nfrm = s.nfrm := rfl
@[simp] theorem State.raiseBusy_phase : (s.raiseBusy).phase = s.phase := rfl
@[simp] theorem State.raiseBusy_toff : (s.raiseBusy).toff = s.toff := rfl
@[simp] theorem State.raiseBusy_peak : (s.raiseBusy).peak = s.peak := rfl
@[simp] theorem State.raiseBusy_peakmag : (s.raiseBusy).peakmag = s.peakmag := rfl
@[simp] theorem State.raiseBusy_freq : (s.raiseBusy).freq = s.freq := rfl
@[simp] theorem State.raiseBusy_nbits : (s.raiseBusy).nbits = s.nbits := rfl
@[simp] theorem State.raiseBusy_errcnt : (s.raiseBusy).errcnt = s.errcnt := rfl
@[simp] theorem State.raiseBusy_errpos : (s.raiseBusy).errpos = s.errpos := rfl
@[simp] theorem State.raiseBusy_cmdlatch : (s.raiseBusy).cmdlatch = s.cmdlatch := rfl
@[simp] theorem State.raiseBusy_smpmem : (s.raiseBusy).smpmem = s.smpmem := rfl
@[simp] theorem State.raiseBusy_txmem : (s.raiseBusy).txmem = s.txmem := rfl
@[simp] theorem State.raiseBusy_rxmem : (s.raiseBusy).rxmem = s.rxmem := rfl
@[simp] theorem State.raiseBusy_frmmem : (s.raiseBusy).frmmem = s.frmmem := rfl
@[simp] theorem State.raiseBusy_specmem : (s.raiseBusy).specmem = s.specmem := rfl
@[simp] theorem State.raiseBusy_turns : (s.raiseBusy).turns = s.turns := rfl
@[simp] theorem State.raiseBusy_rdata : (s.raiseBusy).rdata = s.rdata := rfl
@[simp] theorem State.raiseBusy_draws : (s.raiseBusy).draws = s.draws := rfl

/-! `State.raiseAddress` changes `esticky` and nothing else. -/

@[simp] theorem State.raiseAddress_status : (s.raiseAddress).status = s.status := rfl
@[simp] theorem State.raiseAddress_cfgcause : (s.raiseAddress).cfgcause = s.cfgcause := rfl
@[simp] theorem State.raiseAddress_esticky : (s.raiseAddress).esticky = { s.esticky with addrErr := true } := rfl
@[simp] theorem State.raiseAddress_ctrl : (s.raiseAddress).ctrl = s.ctrl := rfl
@[simp] theorem State.raiseAddress_fcenter : (s.raiseAddress).fcenter = s.fcenter := rfl
@[simp] theorem State.raiseAddress_fdev : (s.raiseAddress).fdev = s.fdev := rfl
@[simp] theorem State.raiseAddress_fmargin : (s.raiseAddress).fmargin = s.fmargin := rfl
@[simp] theorem State.raiseAddress_spb : (s.raiseAddress).spb = s.spb := rfl
@[simp] theorem State.raiseAddress_wlog2 : (s.raiseAddress).wlog2 = s.wlog2 := rfl
@[simp] theorem State.raiseAddress_hop : (s.raiseAddress).hop = s.hop := rfl
@[simp] theorem State.raiseAddress_mthresh : (s.raiseAddress).mthresh = s.mthresh := rfl
@[simp] theorem State.raiseAddress_slen : (s.raiseAddress).slen = s.slen := rfl
@[simp] theorem State.raiseAddress_nfrm : (s.raiseAddress).nfrm = s.nfrm := rfl
@[simp] theorem State.raiseAddress_phase : (s.raiseAddress).phase = s.phase := rfl
@[simp] theorem State.raiseAddress_toff : (s.raiseAddress).toff = s.toff := rfl
@[simp] theorem State.raiseAddress_peak : (s.raiseAddress).peak = s.peak := rfl
@[simp] theorem State.raiseAddress_peakmag : (s.raiseAddress).peakmag = s.peakmag := rfl
@[simp] theorem State.raiseAddress_freq : (s.raiseAddress).freq = s.freq := rfl
@[simp] theorem State.raiseAddress_nbits : (s.raiseAddress).nbits = s.nbits := rfl
@[simp] theorem State.raiseAddress_errcnt : (s.raiseAddress).errcnt = s.errcnt := rfl
@[simp] theorem State.raiseAddress_errpos : (s.raiseAddress).errpos = s.errpos := rfl
@[simp] theorem State.raiseAddress_cmdlatch : (s.raiseAddress).cmdlatch = s.cmdlatch := rfl
@[simp] theorem State.raiseAddress_smpmem : (s.raiseAddress).smpmem = s.smpmem := rfl
@[simp] theorem State.raiseAddress_txmem : (s.raiseAddress).txmem = s.txmem := rfl
@[simp] theorem State.raiseAddress_rxmem : (s.raiseAddress).rxmem = s.rxmem := rfl
@[simp] theorem State.raiseAddress_frmmem : (s.raiseAddress).frmmem = s.frmmem := rfl
@[simp] theorem State.raiseAddress_specmem : (s.raiseAddress).specmem = s.specmem := rfl
@[simp] theorem State.raiseAddress_turns : (s.raiseAddress).turns = s.turns := rfl
@[simp] theorem State.raiseAddress_rdata : (s.raiseAddress).rdata = s.rdata := rfl
@[simp] theorem State.raiseAddress_draws : (s.raiseAddress).draws = s.draws := rfl

/-! `State.answer` changes `rdata` and nothing else. -/

@[simp] theorem State.answer_status (v : Word) : (s.answer v).status = s.status := rfl
@[simp] theorem State.answer_cfgcause (v : Word) : (s.answer v).cfgcause = s.cfgcause := rfl
@[simp] theorem State.answer_esticky (v : Word) : (s.answer v).esticky = s.esticky := rfl
@[simp] theorem State.answer_ctrl (v : Word) : (s.answer v).ctrl = s.ctrl := rfl
@[simp] theorem State.answer_fcenter (v : Word) : (s.answer v).fcenter = s.fcenter := rfl
@[simp] theorem State.answer_fdev (v : Word) : (s.answer v).fdev = s.fdev := rfl
@[simp] theorem State.answer_fmargin (v : Word) : (s.answer v).fmargin = s.fmargin := rfl
@[simp] theorem State.answer_spb (v : Word) : (s.answer v).spb = s.spb := rfl
@[simp] theorem State.answer_wlog2 (v : Word) : (s.answer v).wlog2 = s.wlog2 := rfl
@[simp] theorem State.answer_hop (v : Word) : (s.answer v).hop = s.hop := rfl
@[simp] theorem State.answer_mthresh (v : Word) : (s.answer v).mthresh = s.mthresh := rfl
@[simp] theorem State.answer_slen (v : Word) : (s.answer v).slen = s.slen := rfl
@[simp] theorem State.answer_nfrm (v : Word) : (s.answer v).nfrm = s.nfrm := rfl
@[simp] theorem State.answer_phase (v : Word) : (s.answer v).phase = s.phase := rfl
@[simp] theorem State.answer_toff (v : Word) : (s.answer v).toff = s.toff := rfl
@[simp] theorem State.answer_peak (v : Word) : (s.answer v).peak = s.peak := rfl
@[simp] theorem State.answer_peakmag (v : Word) : (s.answer v).peakmag = s.peakmag := rfl
@[simp] theorem State.answer_freq (v : Word) : (s.answer v).freq = s.freq := rfl
@[simp] theorem State.answer_nbits (v : Word) : (s.answer v).nbits = s.nbits := rfl
@[simp] theorem State.answer_errcnt (v : Word) : (s.answer v).errcnt = s.errcnt := rfl
@[simp] theorem State.answer_errpos (v : Word) : (s.answer v).errpos = s.errpos := rfl
@[simp] theorem State.answer_cmdlatch (v : Word) : (s.answer v).cmdlatch = s.cmdlatch := rfl
@[simp] theorem State.answer_smpmem (v : Word) : (s.answer v).smpmem = s.smpmem := rfl
@[simp] theorem State.answer_txmem (v : Word) : (s.answer v).txmem = s.txmem := rfl
@[simp] theorem State.answer_rxmem (v : Word) : (s.answer v).rxmem = s.rxmem := rfl
@[simp] theorem State.answer_frmmem (v : Word) : (s.answer v).frmmem = s.frmmem := rfl
@[simp] theorem State.answer_specmem (v : Word) : (s.answer v).specmem = s.specmem := rfl
@[simp] theorem State.answer_turns (v : Word) : (s.answer v).turns = s.turns := rfl
@[simp] theorem State.answer_rdata (v : Word) : (s.answer v).rdata = some v := rfl
@[simp] theorem State.answer_draws (v : Word) : (s.answer v).draws = s.draws := rfl

/-! `State.answerFree` changes `rdata`, `draws` and nothing else. -/

@[simp] theorem State.answerFree_status (f : Word → Word) : (s.answerFree f).status = s.status := rfl
@[simp] theorem State.answerFree_cfgcause (f : Word → Word) : (s.answerFree f).cfgcause = s.cfgcause := rfl
@[simp] theorem State.answerFree_esticky (f : Word → Word) : (s.answerFree f).esticky = s.esticky := rfl
@[simp] theorem State.answerFree_ctrl (f : Word → Word) : (s.answerFree f).ctrl = s.ctrl := rfl
@[simp] theorem State.answerFree_fcenter (f : Word → Word) : (s.answerFree f).fcenter = s.fcenter := rfl
@[simp] theorem State.answerFree_fdev (f : Word → Word) : (s.answerFree f).fdev = s.fdev := rfl
@[simp] theorem State.answerFree_fmargin (f : Word → Word) : (s.answerFree f).fmargin = s.fmargin := rfl
@[simp] theorem State.answerFree_spb (f : Word → Word) : (s.answerFree f).spb = s.spb := rfl
@[simp] theorem State.answerFree_wlog2 (f : Word → Word) : (s.answerFree f).wlog2 = s.wlog2 := rfl
@[simp] theorem State.answerFree_hop (f : Word → Word) : (s.answerFree f).hop = s.hop := rfl
@[simp] theorem State.answerFree_mthresh (f : Word → Word) : (s.answerFree f).mthresh = s.mthresh := rfl
@[simp] theorem State.answerFree_slen (f : Word → Word) : (s.answerFree f).slen = s.slen := rfl
@[simp] theorem State.answerFree_nfrm (f : Word → Word) : (s.answerFree f).nfrm = s.nfrm := rfl
@[simp] theorem State.answerFree_phase (f : Word → Word) : (s.answerFree f).phase = s.phase := rfl
@[simp] theorem State.answerFree_toff (f : Word → Word) : (s.answerFree f).toff = s.toff := rfl
@[simp] theorem State.answerFree_peak (f : Word → Word) : (s.answerFree f).peak = s.peak := rfl
@[simp] theorem State.answerFree_peakmag (f : Word → Word) : (s.answerFree f).peakmag = s.peakmag := rfl
@[simp] theorem State.answerFree_freq (f : Word → Word) : (s.answerFree f).freq = s.freq := rfl
@[simp] theorem State.answerFree_nbits (f : Word → Word) : (s.answerFree f).nbits = s.nbits := rfl
@[simp] theorem State.answerFree_errcnt (f : Word → Word) : (s.answerFree f).errcnt = s.errcnt := rfl
@[simp] theorem State.answerFree_errpos (f : Word → Word) : (s.answerFree f).errpos = s.errpos := rfl
@[simp] theorem State.answerFree_cmdlatch (f : Word → Word) : (s.answerFree f).cmdlatch = s.cmdlatch := rfl
@[simp] theorem State.answerFree_smpmem (f : Word → Word) : (s.answerFree f).smpmem = s.smpmem := rfl
@[simp] theorem State.answerFree_txmem (f : Word → Word) : (s.answerFree f).txmem = s.txmem := rfl
@[simp] theorem State.answerFree_rxmem (f : Word → Word) : (s.answerFree f).rxmem = s.rxmem := rfl
@[simp] theorem State.answerFree_frmmem (f : Word → Word) : (s.answerFree f).frmmem = s.frmmem := rfl
@[simp] theorem State.answerFree_specmem (f : Word → Word) : (s.answerFree f).specmem = s.specmem := rfl
@[simp] theorem State.answerFree_turns (f : Word → Word) : (s.answerFree f).turns = s.turns := rfl
@[simp] theorem State.answerFree_rdata (f : Word → Word) :
    (s.answerFree f).rdata = some (f (Config.freeWord s.draws)) := rfl
@[simp] theorem State.answerFree_draws (f : Word → Word) : (s.answerFree f).draws = s.draws + 1 := rfl

/-- Equal memories, registers and flags make equal states where `t` is `s` with some fields replaced by `t`'s own:
the form every frame statement takes. -/
theorem State.complete_eq_update (r : Raised) (b : Bool) : s.complete r b =
    { s with
      status := (s.complete r b).status
      cfgcause := (s.complete r b).cfgcause
      esticky := (s.complete r b).esticky } := rfl

end Sys2Proof.Machine
end

