-- ==== Sys2Proof/Laws/Control.lean ====
section
/-! SUPPORT. The stages of a command (spec/44_control.md R191, R196), said once: what the judgement can be, and what a
command that answers a next state did. -/

namespace Sys2Proof.Machine

theorem Causes.any_eq_false_iff (c : Causes) : c.any = false ↔ c = Causes.none := by
  obtain ⟨a, b, c, d, e, f, g, h, i, j⟩ := c
  simp [Causes.any, Causes.none, and_assoc]

theorem Causes.any_eq_true_iff (c : Causes) : c.any = true ↔ c ≠ Causes.none := by
  rw [ne_eq, ← Causes.any_eq_false_iff, Bool.not_eq_false]

theorem judge_configuration {i : Instr} {s : State} {c : Causes} (h : judge i s = .configuration c) :
    c = heldCauses i s ∧ c ≠ Causes.none := by
  unfold judge at h
  split at h
  · rename_i hany
    cases h
    exact ⟨rfl, (Causes.any_eq_true_iff _).mp hany⟩
  · split at h <;> cases h

theorem judge_command {i : Instr} {s : State} (h : judge i s = .command) :
    heldCauses i s = Causes.none ∧ operandIllegal i s = true := by
  unfold judge at h
  split at h
  · cases h
  · rename_i hany
    split at h
    · exact ⟨(Causes.any_eq_false_iff _).mp (by simpa using hany), by assumption⟩
    · cases h

theorem judge_nothing_iff {i : Instr} {s : State} :
    judge i s = .nothing ↔ heldCauses i s = Causes.none ∧ operandIllegal i s = false := by
  unfold judge
  constructor
  · intro h
    split at h
    · cases h
    · rename_i hany
      split at h
      · cases h
      · rename_i hop
        exact ⟨(Causes.any_eq_false_iff _).mp (by simpa using hany), by simpa using hop⟩
  · rintro ⟨h1, h2⟩
    simp [(Causes.any_eq_false_iff _).mpr h1, h2]

theorem judge_of_causes {i : Instr} {s : State} (h : heldCauses i s ≠ Causes.none) :
    judge i s = .configuration (heldCauses i s) := by
  simp [judge, (Causes.any_eq_true_iff _).mpr h]

/-- Only `XFRM` can raise CommandError in stage 3 (R191, R202). -/
theorem operandIllegal_xfrm {i : Instr} {s : State} (h : operandIllegal i s = true) :
    ∃ j, i = .xfrm j ∧ frameCount s ≤ j := by
  cases i <;> simp_all [operandIllegal]

/-- Everything a command that answers a next state can have done: it raised in stage 2 or 3 and only completed, or its
body ran and completion followed. -/
theorem runCommand_next {i : Instr} {decodes : Bool} {body : State → Except Fault State} {s t : State}
    (h : runCommand i decodes body s = .next t) :
    (judge i s = .nothing ∧ ∃ u, body s = .ok u ∧
      t = u.complete .nothing (decodes && decide (0 < u.errcnt.toNat))) ∨
    (∃ c, judge i s = .configuration c ∧ t = s.complete (.configuration c) false) ∨
    (judge i s = .command ∧ t = s.complete .command false) := by
  unfold runCommand at h
  cases hj : judge i s with
  | nothing =>
    rw [hj] at h
    cases hb : body s with
    | error f => simp [hb] at h
    | ok u =>
      simp only [hb, Host.Outcome.next.injEq] at h
      exact .inl ⟨rfl, u, rfl, h.symm⟩
  | configuration c =>
    rw [hj] at h
    simp only [Host.Outcome.next.injEq] at h
    exact .inr (.inl ⟨c, rfl, h.symm⟩)
  | command =>
    rw [hj] at h
    simp only [Host.Outcome.next.injEq] at h
    exact .inr (.inr ⟨rfl, h.symm⟩)

theorem runCommand_of_ok {i : Instr} {decodes : Bool} {body : State → Except Fault State} {s u : State}
    (hj : judge i s = .nothing) (hb : body s = .ok u) :
    runCommand i decodes body s = .next (u.complete .nothing (decodes && decide (0 < u.errcnt.toNat))) := by
  simp [runCommand, hj, hb]

theorem runCommand_of_error {i : Instr} {decodes : Bool} {body : State → Except Fault State} {s : State} {f : Fault}
    (hj : judge i s = .nothing) (hb : body s = .error f) : runCommand i decodes body s = .fault f := by
  simp [runCommand, hj, hb]

theorem runCommand_of_configuration {i : Instr} {decodes : Bool} {body : State → Except Fault State} {s : State}
    {c : Causes} (hj : judge i s = .configuration c) :
    runCommand i decodes body s = .next (s.complete (.configuration c) false) := by
  simp [runCommand, hj]

theorem runCommand_of_command {i : Instr} {decodes : Bool} {body : State → Except Fault State} {s : State}
    (hj : judge i s = .command) : runCommand i decodes body s = .next (s.complete .command false) := by
  simp [runCommand, hj]

/-- No command is ever refused. -/
theorem runCommand_not_refused {i : Instr} {decodes : Bool} {body : State → Except Fault State} {s : State}
    {r : Refusal} : runCommand i decodes body s ≠ .refused r := by
  unfold runCommand
  cases judge i s with
  | nothing => cases body s <;> simp
  | configuration c => simp
  | command => simp

/-- The body of each command (stage 4 of R191), as `exec` runs it. -/
def bodyOf : Instr → State → Except Fault State
  | .nop => .ok
  | .check => .ok
  | .mod n => modBody n
  | .xfrm j => xfrmBody j
  | .xtrc => xtrcBody
  | .anlz => anlzBody
  | .dec => decBody
  | .demod => demodBody

/-- The commands whose body is the decoder's (R196). -/
def decodesBits : Instr → Bool
  | .dec => true
  | .demod => true
  | .nop => false
  | .check => false
  | .mod _ => false
  | .xfrm _ => false
  | .xtrc => false
  | .anlz => false

/-- Every arm of `exec` is the shared stages around the command's own body. -/
theorem exec_eq_runCommand (i : Instr) (s : State) : exec i s = runCommand i (decodesBits i) (bodyOf i) s := by
  cases i <;> rfl

end Sys2Proof.Machine
end

