-- ==== Sys2Proof/Laws/Memory.lean ====
section
/-! SUPPORT. What the memory operations do, said once: reading after each of them, the form they keep, and when a
command's reads succeed. -/

namespace Sys2Proof.Machine

variable {w : Nat}

/-! ### Reading after a write -/

@[simp] theorem Memory.read_nil (i : Nat) : Memory.read ([] : Memory w) i = none := rfl

theorem Memory.read_cons (j i : Nat) (v : BitVec w) (m : Memory w) :
    Memory.read ((j, v) :: m) i = if i = j then some v else Memory.read m i := rfl

@[simp] theorem Memory.read_write_same (m : Memory w) (i : Nat) (v : BitVec w) :
    Memory.read (Memory.write m i v) i = some v := by
  induction m with
  | nil => simp [Memory.write, Memory.read]
  | cons e m ih =>
    obtain ⟨j, u⟩ := e
    simp only [Memory.write]
    split
    · simp [Memory.read]
    · split
      · simp [Memory.read]
      · rename_i h
        simp [Memory.read, h, ih]

theorem Memory.read_write_other (m : Memory w) {i j : Nat} (v : BitVec w) (h : j ≠ i) :
    Memory.read (Memory.write m i v) j = Memory.read m j := by
  induction m with
  | nil => simp [Memory.write, Memory.read, h]
  | cons e m ih =>
    obtain ⟨k, u⟩ := e
    simp only [Memory.write]
    split
    · simp [Memory.read, h]
    · split
      · rename_i _ hik
        subst hik
        simp [Memory.read, h]
      · simp only [Memory.read, ih]

theorem Memory.read_write (m : Memory w) (i j : Nat) (v : BitVec w) :
    Memory.read (Memory.write m i v) j = if j = i then some v else Memory.read m j := by
  by_cases h : j = i
  · simp [h]
  · simp [h, Memory.read_write_other m v h]

theorem Memory.read_filter (m : Memory w) (p : Nat → Bool) (i : Nat) :
    Memory.read (m.filter (fun e => p e.1)) i = if p i then Memory.read m i else none := by
  induction m with
  | nil => simp
  | cons e m ih =>
    obtain ⟨j, v⟩ := e
    by_cases hj : p j
    · by_cases hij : i = j
      · subst hij
        simp [Memory.read, hj]
      · simp only [List.filter_cons, hj, if_true, Memory.read, hij, if_false, ih]
    · by_cases hij : i = j
      · subst hij
        simp [hj, ih]
      · simp [hj, Memory.read, hij, ih]

theorem Memory.read_dropBelow (m : Memory w) (n i : Nat) :
    Memory.read (Memory.dropBelow m n) i = if n ≤ i then Memory.read m i else none := by
  have h := Memory.read_filter m (fun k => decide (n ≤ k)) i
  simpa [Memory.dropBelow] using h

theorem Memory.read_between (m : Memory w) (lo hi i : Nat) :
    Memory.read (Memory.between m lo hi) i = if lo ≤ i ∧ i < hi then Memory.read m i else none := by
  have h := Memory.read_filter m (fun k => decide (lo ≤ k ∧ k < hi)) i
  simpa [Memory.between] using h

theorem Memory.read_numbered_append (vs : List (BitVec w)) (m : Memory w) (start i : Nat) :
    Memory.read (numbered start vs ++ m) i =
      if start ≤ i ∧ i < start + vs.length then vs[i - start]? else Memory.read m i := by
  induction vs generalizing start with
  | nil => simp [numbered, show ¬(start ≤ i ∧ i < start) by omega]
  | cons v vs ih =>
    simp only [numbered, List.cons_append, Memory.read, ih, List.length_cons]
    by_cases h : i = start
    · subst h
      simp
    · by_cases h2 : start + 1 ≤ i ∧ i < start + 1 + vs.length
      · have h3 : start ≤ i ∧ i < start + (vs.length + 1) := by omega
        rw [if_neg h, if_pos h2, if_pos h3, show i - start = (i - (start + 1)) + 1 by omega]
        rfl
      · have h3 : ¬(start ≤ i ∧ i < start + (vs.length + 1)) := by omega
        rw [if_neg h, if_neg h2, if_neg h3]

/-- `MEM[0 .. L-1] <- vs`: entry `i` reads `vs[i]` below `L` and what it read before at and above `L`. -/
theorem Memory.read_storeFromZero (m : Memory w) (vs : List (BitVec w)) (i : Nat) :
    Memory.read (Memory.storeFromZero m vs) i = if i < vs.length then vs[i]? else Memory.read m i := by
  rw [Memory.storeFromZero, Memory.read_numbered_append, Memory.read_dropBelow]
  by_cases h : i < vs.length
  · simp [h]
  · simp [h, Nat.le_of_not_lt h]

/-! ### The form every operation keeps -/

theorem Memory.wf_nil (depth : Nat) : Memory.wf depth ([] : Memory w) := ⟨List.Pairwise.nil, by simp⟩

theorem Memory.mem_write {m : Memory w} {i : Nat} {v : BitVec w} {e : Nat × BitVec w}
    (h : e ∈ Memory.write m i v) : e = (i, v) ∨ e ∈ m := by
  induction m with
  | nil => simpa [Memory.write] using h
  | cons a m ih =>
    obtain ⟨j, u⟩ := a
    simp only [Memory.write] at h
    split at h
    · simpa using h
    · split at h
      · rcases List.mem_cons.mp h with h | h
        · exact .inl h
        · exact .inr (List.mem_cons_of_mem _ h)
      · rcases List.mem_cons.mp h with h | h
        · exact .inr (h ▸ List.mem_cons_self)
        · exact (ih h).imp id (List.mem_cons_of_mem _)

theorem Memory.wf_write {depth : Nat} {m : Memory w} (hm : Memory.wf depth m) {i : Nat} (hi : i < depth)
    (v : BitVec w) : Memory.wf depth (Memory.write m i v) := by
  refine ⟨?_, fun e he => ?_⟩
  · have hp := hm.1
    clear hm
    induction m with
    | nil => simp [Memory.write]
    | cons a m ih =>
      obtain ⟨j, u⟩ := a
      obtain ⟨hj, hrest⟩ := List.pairwise_cons.mp hp
      simp only [Memory.write]
      split
      · rename_i hij
        refine List.pairwise_cons.mpr ⟨fun e he => ?_, hp⟩
        rcases List.mem_cons.mp he with rfl | he
        · exact hij
        · exact Nat.lt_trans hij (hj e he)
      · split
        · rename_i _ hij
          subst hij
          exact List.pairwise_cons.mpr ⟨hj, hrest⟩
        · rename_i h1 h2
          refine List.pairwise_cons.mpr ⟨fun e he => ?_, ih hrest⟩
          rcases Memory.mem_write he with rfl | he
          · change j < i
            omega
          · exact hj e he
  · rcases Memory.mem_write he with rfl | he
    · exact hi
    · exact hm.2 e he

theorem Memory.wf_dropBelow {depth : Nat} {m : Memory w} (hm : Memory.wf depth m) (n : Nat) :
    Memory.wf depth (Memory.dropBelow m n) :=
  ⟨hm.1.filter _, fun e he => hm.2 e (List.mem_of_mem_filter he)⟩

theorem mem_numbered {vs : List (BitVec w)} {start : Nat} {e : Nat × BitVec w} (h : e ∈ numbered start vs) :
    start ≤ e.1 ∧ e.1 < start + vs.length ∧ e.2 ∈ vs := by
  induction vs generalizing start with
  | nil => simp [numbered] at h
  | cons v vs ih =>
    rcases List.mem_cons.mp h with rfl | h
    · simp
    · have := ih h
      simp only [List.length_cons, List.mem_cons]
      exact ⟨by omega, by omega, .inr this.2.2⟩

theorem numbered_rising (vs : List (BitVec w)) (start : Nat) :
    (numbered start vs).Pairwise (fun a b => a.1 < b.1) := by
  induction vs generalizing start with
  | nil => exact List.Pairwise.nil
  | cons v vs ih =>
    exact List.pairwise_cons.mpr ⟨fun e he => (mem_numbered he).1, ih (start + 1)⟩

theorem Memory.wf_storeFromZero {depth : Nat} {m : Memory w} (hm : Memory.wf depth m) {vs : List (BitVec w)}
    (hvs : vs.length ≤ depth) : Memory.wf depth (Memory.storeFromZero m vs) := by
  refine ⟨List.pairwise_append.mpr ⟨numbered_rising vs 0, (Memory.wf_dropBelow hm _).1, fun a ha b hb => ?_⟩,
    fun e he => ?_⟩
  · have h1 := (mem_numbered ha).2.1
    have h2 : vs.length ≤ b.1 := by simpa using (List.mem_filter.mp hb).2
    omega
  · rcases List.mem_append.mp he with he | he
    · have h1 := (mem_numbered he).2.1
      omega
    · exact (Memory.wf_dropBelow hm _).2 e he

theorem Memory.read_eq_none_of_lt {m : Memory w} {i : Nat} (h : ∀ e ∈ m, i < e.1) : Memory.read m i = none := by
  induction m with
  | nil => rfl
  | cons a m ih =>
    obtain ⟨j, u⟩ := a
    have hj : i < j := h (j, u) List.mem_cons_self
    rw [Memory.read, if_neg (by omega)]
    exact ih fun e he => h e (List.mem_cons_of_mem _ he)

/-- Two memories of the form that read alike at every index are the same data. -/
theorem Memory.ext_of_rising {m m' : Memory w} (hm : m.Pairwise (fun a b => a.1 < b.1))
    (hm' : m'.Pairwise (fun a b => a.1 < b.1)) (h : ∀ i, Memory.read m i = Memory.read m' i) : m = m' := by
  induction m generalizing m' with
  | nil =>
    cases m' with
    | nil => rfl
    | cons b m' => simpa [Memory.read] using h b.1
  | cons a m ih =>
    obtain ⟨ha, hrest⟩ := List.pairwise_cons.mp hm
    cases m' with
    | nil => simpa [Memory.read] using h a.1
    | cons b m' =>
      obtain ⟨hb, hrest'⟩ := List.pairwise_cons.mp hm'
      have hab : a.1 = b.1 := by
        rcases Nat.lt_trichotomy a.1 b.1 with hlt | heq | hgt
        · have h1 := h a.1
          rw [Memory.read_eq_none_of_lt (m := b :: m') (fun e he => by
            rcases List.mem_cons.mp he with rfl | he
            · exact hlt
            · exact Nat.lt_trans hlt (hb e he))] at h1
          simp [Memory.read] at h1
        · exact heq
        · have h1 := h b.1
          rw [Memory.read_eq_none_of_lt (m := a :: m) (fun e he => by
            rcases List.mem_cons.mp he with rfl | he
            · exact hgt
            · exact Nat.lt_trans hgt (ha e he))] at h1
          simp [Memory.read] at h1
      have hv : a = b := by
        have h1 := h a.1
        obtain ⟨i, u⟩ := a
        obtain ⟨j, v⟩ := b
        obtain rfl : i = j := hab
        simp only [Memory.read, if_true, Option.some.injEq] at h1
        rw [h1]
      subst hv
      refine congrArg (List.cons a) (ih hrest hrest' fun i => ?_)
      by_cases hi : i = a.1
      · subst hi
        rw [Memory.read_eq_none_of_lt ha, Memory.read_eq_none_of_lt hb]
      · have h1 := h i
        obtain ⟨j, u⟩ := a
        simpa [Memory.read, show ¬ i = j from hi] using h1

/-! ### A command's reads -/

theorem fetch_ok_iff {sp : Space} {m : Memory w} {i : Nat} {v : BitVec w} :
    fetch sp m i = .ok v ↔ Memory.read m i = some v := by
  unfold fetch
  split <;> simp_all

theorem fetchAll_ok_iff {sp : Space} {m : Memory w} {is : List Nat} {vs : List (BitVec w)} :
    fetchAll sp m is = .ok vs ↔ is.map (Memory.read m) = vs.map some := by
  induction is generalizing vs with
  | nil => cases vs <;> simp [fetchAll]
  | cons i is ih =>
    cases hi : Memory.read m i with
    | none =>
      have hf : fetch sp m i = .error (.unwrittenEntry sp i) := by simp [fetch, hi]
      cases vs <;> simp [fetchAll, hf, hi]
    | some v =>
      have hf : fetch sp m i = .ok v := fetch_ok_iff.mpr hi
      cases hr : fetchAll sp m is with
      | error f =>
        cases vs with
        | nil => simp [fetchAll, hf, hr]
        | cons u us =>
          have hne : ¬ is.map (Memory.read m) = us.map some := fun h => by
            have := ih.mpr h
            rw [hr] at this
            cases this
          simp [fetchAll, hf, hr, hi, hne]
      | ok us =>
        have hus := ih.mp hr
        cases vs with
        | nil => simp [fetchAll, hf, hr]
        | cons u vs =>
          simp only [fetchAll, hf, hr, List.map_cons, hi, hus, Except.ok.injEq, List.cons.injEq, Option.some.injEq]
          constructor
          · rintro ⟨rfl, rfl⟩
            exact ⟨rfl, rfl⟩
          · rintro ⟨rfl, h⟩
            exact ⟨rfl, (List.map_injective_iff.mpr (Option.some_injective _)) h⟩

theorem fetchAll_length {sp : Space} {m : Memory w} {is : List Nat} {vs : List (BitVec w)}
    (h : fetchAll sp m is = .ok vs) : vs.length = is.length := by
  have := congrArg List.length (fetchAll_ok_iff.mp h)
  simpa using this.symm

theorem fetchAll_isOk {sp : Space} {m : Memory w} {is : List Nat} (h : ∀ i ∈ is, (Memory.read m i).isSome) :
    ∃ vs, fetchAll sp m is = .ok vs := by
  induction is with
  | nil => exact ⟨[], rfl⟩
  | cons i is ih =>
    obtain ⟨v, hv⟩ := Option.isSome_iff_exists.mp (h i List.mem_cons_self)
    obtain ⟨vs, hvs⟩ := ih fun j hj => h j (List.mem_cons_of_mem _ hj)
    exact ⟨v :: vs, by simp [fetchAll, fetch_ok_iff.mpr hv, hvs]⟩

/-- The first entry of the list that nothing has written is the one the fault names. -/
theorem fetchAll_error_iff {sp : Space} {m : Memory w} {is : List Nat} {f : Fault} :
    fetchAll sp m is = .error f ↔ ∃ before i after, is = before ++ i :: after ∧
      (∀ j ∈ before, (Memory.read m j).isSome) ∧ Memory.read m i = none ∧ f = .unwrittenEntry sp i := by
  induction is generalizing f with
  | nil => simp [fetchAll]
  | cons i is ih =>
    cases hi : Memory.read m i with
    | none =>
      have hf : fetch sp m i = .error (.unwrittenEntry sp i) := by simp [fetch, hi]
      simp only [fetchAll, hf, Except.error.injEq]
      constructor
      · rintro rfl
        exact ⟨[], i, is, rfl, by simp, hi, rfl⟩
      · rintro ⟨before, j, after, heq, hb, hj, rfl⟩
        cases before with
        | nil =>
          simp only [List.nil_append, List.cons.injEq] at heq
          rw [heq.1]
        | cons b bs =>
          simp only [List.cons_append, List.cons.injEq] at heq
          have := hb b List.mem_cons_self
          rw [← heq.1, hi] at this
          cases this
    | some v =>
      have hf : fetch sp m i = .ok v := fetch_ok_iff.mpr hi
      have hstep : fetchAll sp m (i :: is) = .error f ↔ fetchAll sp m is = .error f := by
        simp only [fetchAll, hf]
        cases fetchAll sp m is <;> simp
      rw [hstep, ih]
      constructor
      · rintro ⟨before, j, after, rfl, hb, hj, rfl⟩
        refine ⟨i :: before, j, after, rfl, fun k hk => ?_, hj, rfl⟩
        rcases List.mem_cons.mp hk with rfl | hk
        · simp [hi]
        · exact hb k hk
      · rintro ⟨before, j, after, heq, hb, hj, rfl⟩
        cases before with
        | nil =>
          simp only [List.nil_append, List.cons.injEq] at heq
          rw [← heq.1, hi] at hj
          cases hj
        | cons b bs =>
          simp only [List.cons_append, List.cons.injEq] at heq
          exact ⟨bs, j, after, heq.2, fun k hk => hb k (List.mem_cons_of_mem _ hk), hj, rfl⟩

theorem fetchAll_congr {sp : Space} {m m' : Memory w} {is : List Nat}
    (h : ∀ i ∈ is, Memory.read m i = Memory.read m' i) : fetchAll sp m is = fetchAll sp m' is := by
  induction is with
  | nil => rfl
  | cons i is ih =>
    have hi : fetch sp m i = fetch sp m' i := by simp [fetch, h i List.mem_cons_self]
    simp [fetchAll, hi, ih fun j hj => h j (List.mem_cons_of_mem _ hj)]

theorem fetchRun_eq_fetchAll (sp : Space) (m : Memory w) (start len : Nat) :
    fetchRun sp m start len = fetchAll sp m (List.range' start len) := by
  refine fetchAll_congr fun i hi => ?_
  rw [Memory.read_between, if_pos]
  simpa [List.mem_range'_1] using hi

/-- A run of reads gives the entries it covers, in order. -/
theorem fetchRun_ok {sp : Space} {m : Memory w} {start len : Nat} {vs : List (BitVec w)}
    (h : fetchRun sp m start len = .ok vs) :
    vs.length = len ∧ ∀ n, n < len → Memory.read m (start + n) = vs[n]? := by
  rw [fetchRun_eq_fetchAll] at h
  have hlen : vs.length = len := by simpa using fetchAll_length h
  refine ⟨hlen, fun n hn => ?_⟩
  have h1 := congrArg (fun l => l[n]?) (fetchAll_ok_iff.mp h)
  simp only [List.getElem?_map] at h1
  rw [List.getElem?_range' (by omega)] at h1
  obtain ⟨v, hv⟩ : ∃ v, vs[n]? = some v := ⟨_, List.getElem?_eq_getElem (by omega)⟩
  simpa [hv] using h1

theorem fetchRun_isOk {sp : Space} {m : Memory w} {start len : Nat}
    (h : ∀ n, n < len → (Memory.read m (start + n)).isSome) : ∃ vs, fetchRun sp m start len = .ok vs := by
  rw [fetchRun_eq_fetchAll]
  refine fetchAll_isOk fun i hi => ?_
  obtain ⟨h1, h2⟩ := List.mem_range'_1.mp hi
  simpa [show start + (i - start) = i by omega] using h (i - start) (by omega)

end Sys2Proof.Machine
end

