-- ==== Sys2Proof/Laws/Bodies.lean ====
section
/-! SUPPORT. What each command's body does when it succeeds, and the lengths of the lists it stores. -/

namespace Sys2Proof.Machine

/-! ### Modulator -/

@[simp] theorem toneRun_length (f : Word) (count : Nat) (p : Word) : (toneRun f count p).1.length = count := by
  induction count generalizing p with
  | zero => rfl
  | succ count ih => simp [toneRun, ih]

@[simp] theorem modulate_length (spb : Nat) (fs : List Word) (p : Word) :
    (modulate spb fs p).1.length = fs.length * spb := by
  induction fs generalizing p with
  | nil => simp [modulate]
  | cons f fs ih =>
    simp only [modulate, List.length_append, toneRun_length, ih, List.length_cons]
    rw [Nat.add_mul, Nat.one_mul, Nat.add_comm]

theorem modBody_ok {n : Nat} {s t : State} (h : modBody n s = .ok t) :
    ∃ bits, fetchRun .txmem s.txmem 0 n = .ok bits ∧ t = { s with
      smpmem := Memory.storeFromZero s.smpmem (modulate s.spb.toNat (bits.map (toneWord s)) 0).1
      phase := (modulate s.spb.toNat (bits.map (toneWord s)) 0).2
      slen := BitVec.ofNat 32 (n * s.spb.toNat) } := by
  unfold modBody at h
  split at h
  · cases h
  · rename_i bits hb
    exact ⟨bits, hb, (Except.ok.inj h).symm⟩

/-! ### Spectral transform -/

theorem evens_odds_length {α : Type} (xs : List α) :
    (evens xs).length = (xs.length + 1) / 2 ∧ (odds xs).length = xs.length / 2 := by
  induction xs using evens.induct with
  | case1 => simp [evens, odds]
  | case2 x => simp [evens, odds]
  | case3 x y xs ih =>
    simp only [evens, odds, List.length_cons]
    omega

theorem reversedOrder_length {α : Type} (m : Nat) (xs : List α) : (reversedOrder m xs).length = xs.length := by
  induction m generalizing xs with
  | zero => rfl
  | succ m ih =>
    have h := evens_odds_length xs
    simp only [reversedOrder, List.length_append, ih]
    omega

theorem butterflies_length (s k : Nat) (as bs : List (Int × Int)) :
    (butterflies s k as bs).1.length = min as.length bs.length ∧
    (butterflies s k as bs).2.length = min as.length bs.length := by
  induction as generalizing k bs with
  | nil => simp [butterflies]
  | cons a as ih =>
    cases bs with
    | nil => simp [butterflies]
    | cons b bs =>
      have h := ih (k + 1) bs
      simp only [butterflies, List.length_cons, h.1, h.2]
      omega

theorem fftBlock_length {s : Nat} (hs : 1 ≤ s) {xs : List (Int × Int)} (h : xs.length = 2 ^ s) :
    (fftBlock s xs).length = 2 ^ s := by
  have hp : 2 ^ s = 2 * 2 ^ (s - 1) := by rw [← pow_succ', Nat.sub_add_cancel hs]
  have hb := butterflies_length s 0 (xs.take (2 ^ (s - 1))) (xs.drop (2 ^ (s - 1)))
  simp only [fftBlock, List.length_append, hb.1, hb.2, List.length_take, List.length_drop]
  omega

theorem fftStage_length {s : Nat} (hs : 1 ≤ s) (blocks : Nat) {xs : List (Int × Int)}
    (h : xs.length = blocks * 2 ^ s) : (fftStage s blocks xs).length = blocks * 2 ^ s := by
  induction blocks generalizing xs with
  | zero => simp [fftStage]
  | succ blocks ih =>
    rw [Nat.add_mul, Nat.one_mul] at h ⊢
    simp only [fftStage, List.length_append]
    rw [fftBlock_length hs (by rw [List.length_take]; omega), ih (by rw [List.length_drop]; omega)]
    omega

theorem fftStages_length {m : Nat} (count s : Nat) (hs : s + count = m) {xs : List (Int × Int)}
    (h : xs.length = 2 ^ m) : (fftStages m count s xs).length = 2 ^ m := by
  induction count generalizing s xs with
  | zero => exact h
  | succ count ih =>
    refine ih (s + 1) (by omega) ?_
    have hp : 2 ^ (m - (s + 1)) * 2 ^ (s + 1) = 2 ^ m := by rw [← pow_add, Nat.sub_add_cancel (by omega)]
    rw [← hp] at h ⊢
    exact fftStage_length (by omega) _ h

theorem windowFrom_length (m n : Nat) (xs : List Int) : (windowFrom m n xs).length = xs.length := by
  induction xs generalizing n with
  | nil => rfl
  | cons x xs ih => simp [windowFrom, ih]

theorem fft_length {m : Nat} {v : List Int} (h : v.length = 2 ^ m) : (fft m v).length = 2 ^ m :=
  fftStages_length m 0 (by omega) (by simp [fftLoad, reversedOrder_length, h])

/-- A spectrum has `W/2 + 1` bins. -/
theorem spectrum_length {m : Nat} {xs : List Int} (hm : 1 ≤ m) (h : xs.length = 2 ^ m) :
    (spectrum m xs).length = 2 ^ m / 2 + 1 := by
  have hp : 2 ^ m = 2 * 2 ^ (m - 1) := by rw [← pow_succ', Nat.sub_add_cancel hm]
  have hpos : 0 < 2 ^ (m - 1) := Nat.two_pow_pos _
  rw [spectrum, List.length_map, List.length_take, fft_length (by rw [windowFrom_length]; exact h)]
  omega

theorem xfrmBody_ok {j : Nat} {s t : State} (h : xfrmBody j s = .ok t) :
    ∃ xs, fetchRun .smpmem s.smpmem (frameOffset s j) (windowSize s) = .ok xs ∧ t = { s with
      specmem := Memory.storeFromZero s.specmem ((spectrum (windowLog s) (xs.map BitVec.toInt)).map (BitVec.ofNat 32))
      toff := BitVec.ofNat 32 (frameOffset s j) } := by
  unfold xfrmBody at h
  split at h
  · cases h
  · rename_i xs hx
    exact ⟨xs, hx, (Except.ok.inj h).symm⟩

/-! ### Extractor -/

theorem refinement_ok {k : Nat} {s : State} {delta : Int} (h : refinement k s = .ok delta) :
    (s.ctrl.interp = false ∧ delta = 0) ∨
    (s.ctrl.interp = true ∧ ∃ a b c, Memory.read s.specmem (k - 1) = some a ∧ Memory.read s.specmem k = some b ∧
      Memory.read s.specmem (k + 1) = some c ∧
      delta = parabola (windowLog s) (a.toNat : Int) (b.toNat : Int) (c.toNat : Int)) := by
  unfold refinement at h
  split at h
  · rename_i hi
    split at h
    · cases h
    · rename_i mags hm
      have hl : mags.length = 3 := by simpa using fetchAll_length hm
      obtain ⟨a, b, c, rfl⟩ : ∃ a b c, mags = [a, b, c] := List.length_eq_three.mp hl
      have hr := fetchAll_ok_iff.mp hm
      simp only [List.map_cons, List.map_nil, List.cons.injEq, and_true] at hr
      exact .inr ⟨hi, a, b, c, hr.1, hr.2.1, hr.2.2, (Except.ok.inj h).symm⟩
  · rename_i hi
    exact .inl ⟨by simpa using hi, (Except.ok.inj h).symm⟩

theorem xtrcBody_ok {s t : State} (h : xtrcBody s = .ok t) :
    ∃ mags delta, fetchRun .specmem s.specmem (binLow s) (binHigh s + 1 - binLow s) = .ok mags ∧
      refinement (peakBin (binLow s) (mags.map BitVec.toNat)) s = .ok delta ∧ t = { s with
        peak := BitVec.ofNat 10 (peakBin (binLow s) (mags.map BitVec.toNat))
        peakmag := mags.getD (peakBin (binLow s) (mags.map BitVec.toNat) - binLow s) 0
        freq := frameWord
          (decide (s.mthresh.toNat ≤ (mags.getD (peakBin (binLow s) (mags.map BitVec.toNat) - binLow s) 0).toNat))
          (peakBin (binLow s) (mags.map BitVec.toNat) * 2 ^ (32 - windowLog s) + delta) } := by
  unfold xtrcBody at h
  split at h
  · cases h
  · rename_i mags hm
    dsimp only at h
    split at h
    · cases h
    · rename_i delta hd
      exact ⟨mags, delta, hm, hd, (Except.ok.inj h).symm⟩

/-- Where the peak scan ends: at the bin it started from or at one of the magnitudes listed. -/
theorem peakScan_range (best top k : Nat) (xs : List Nat) :
    peakScan best top k xs = best ∨ (k ≤ peakScan best top k xs ∧ peakScan best top k xs < k + xs.length) := by
  induction xs generalizing best top k with
  | nil => exact .inl rfl
  | cons x xs ih =>
    simp only [peakScan, List.length_cons]
    split
    · rcases ih k x (k + 1) with h | h
      · rw [h]
        exact .inr (by omega)
      · exact .inr (by omega)
    · rcases ih best top (k + 1) with h | h
      · exact .inl h
      · exact .inr (by omega)

theorem peakBin_range (kLo : Nat) (xs : List Nat) :
    kLo ≤ peakBin kLo xs ∧ peakBin kLo xs < kLo + max 1 xs.length := by
  cases xs with
  | nil => simp [peakBin]
  | cons x xs =>
    have h := peakScan_range kLo x (kLo + 1) xs
    simp only [peakBin, List.length_cons]
    omega

/-- What one pass of ANLZ's loop changes. -/
theorem analyseFrame_ok {j : Nat} {s t : State} (h : analyseFrame j s = .ok t) :
    ∃ u v, xfrmBody j s = .ok u ∧ xtrcBody u = .ok v ∧ t = { v with frmmem := Memory.write v.frmmem j v.freq } := by
  unfold analyseFrame at h
  split at h
  · cases h
  · rename_i u hu
    split at h
    · cases h
    · rename_i v hv
      exact ⟨u, v, hu, hv, (Except.ok.inj h).symm⟩

/-- The fields ANLZ's loop writes; every other field of the state is as before. -/
theorem analyseFrame_frame {j : Nat} {s t : State} (h : analyseFrame j s = .ok t) :
    t = { s with
      specmem := t.specmem, toff := t.toff, peak := t.peak, peakmag := t.peakmag, freq := t.freq
      frmmem := t.frmmem } := by
  obtain ⟨u, v, hu, hv, rfl⟩ := analyseFrame_ok h
  obtain ⟨_, _, rfl⟩ := xfrmBody_ok hu
  obtain ⟨_, _, _, _, rfl⟩ := xtrcBody_ok hv
  rfl

theorem analyseFrames_frame {count j : Nat} {s t : State} (h : analyseFrames count j s = .ok t) :
    t = { s with
      specmem := t.specmem, toff := t.toff, peak := t.peak, peakmag := t.peakmag, freq := t.freq
      frmmem := t.frmmem } := by
  induction count generalizing j s with
  | zero => cases h; rfl
  | succ count ih =>
    simp only [analyseFrames] at h
    split at h
    · cases h
    · rename_i u hu
      have h1 := ih h
      have h2 := analyseFrame_frame hu
      rw [h1, h2]

/-- A property every pass of ANLZ's loop keeps holds after the loop. -/
theorem analyseFrames_induction {P : State → Prop} {count j : Nat} {s t : State}
    (h : analyseFrames count j s = .ok t) (h0 : P s)
    (hstep : ∀ i a b, j ≤ i → i < j + count → P a → analyseFrame i a = .ok b → P b) : P t := by
  induction count generalizing j s with
  | zero => cases h; exact h0
  | succ count ih =>
    simp only [analyseFrames] at h
    split at h
    · cases h
    · rename_i u hu
      exact ih h (hstep j s u (by omega) (by omega) h0 hu)
        fun i a b h1 h2 => hstep i a b (by omega) (by omega)

theorem anlzBody_ok {s t : State} (h : anlzBody s = .ok t) :
    ∃ u, analyseFrames (frameCount s) 0 s = .ok u ∧ t = { u with nfrm := BitVec.ofNat 32 (frameCount s) } := by
  unfold anlzBody at h
  split at h
  · cases h
  · rename_i u hu
    exact ⟨u, hu, (Except.ok.inj h).symm⟩

theorem anlzBody_frame {s t : State} (h : anlzBody s = .ok t) :
    t = { s with
      specmem := t.specmem, toff := t.toff, peak := t.peak, peakmag := t.peakmag, freq := t.freq
      frmmem := t.frmmem, nfrm := t.nfrm } := by
  obtain ⟨u, hu, rfl⟩ := anlzBody_ok h
  have h1 := analyseFrames_frame hu
  rw [h1]

/-! ### Decoder -/

theorem decodePosition_ok_iff {s : State} {b : Nat} {v : BitVec 2} :
    decodePosition s b = .ok v ↔ ∃ frames, fetchAll .frmmem s.frmmem (framesInWindow s b) = .ok frames ∧
      v = classify s.fcenter.toNat frames := by
  unfold decodePosition
  split <;> rename_i h <;> simp [h, eq_comm]

theorem decodePositions_ok_iff {s : State} {bs : List Nat} {vs : List (BitVec 2)} :
    decodePositions s bs = .ok vs ↔ List.Forall₂ (fun b v => decodePosition s b = .ok v) bs vs := by
  induction bs generalizing vs with
  | nil => cases vs <;> simp [decodePositions]
  | cons b bs ih =>
    cases hb : decodePosition s b with
    | error f => cases vs <;> simp [decodePositions, hb]
    | ok v =>
      cases hr : decodePositions s bs with
      | error f =>
        cases vs with
        | nil => simp [decodePositions, hb, hr]
        | cons u us =>
          have hne : ¬ List.Forall₂ (fun b v => decodePosition s b = .ok v) bs us := fun h => by
            have := ih.mpr h
            rw [hr] at this
            cases this
          simp [decodePositions, hb, hr, hne]
      | ok us =>
        cases vs with
        | nil => simp [decodePositions, hb, hr]
        | cons u vs =>
          have hih := ih (vs := vs)
          simp [decodePositions, hb, hr, List.forall₂_cons, ← hih]

theorem decodePositions_length {s : State} {bs : List Nat} {vs : List (BitVec 2)}
    (h : decodePositions s bs = .ok vs) : vs.length = bs.length :=
  (decodePositions_ok_iff.mp h).length_eq.symm

theorem decBody_ok {s t : State} (h : decBody s = .ok t) :
    ∃ codes, decodePositions s (List.range (bitCount s)) = .ok codes ∧ t = { s with
      rxmem := Memory.storeFromZero s.rxmem codes
      errcnt := BitVec.ofNat 32 (incompleteCount codes)
      errpos := firstIncomplete 0 codes
      nbits := BitVec.ofNat 32 (bitCount s) } := by
  unfold decBody at h
  split at h
  · cases h
  · rename_i codes hc
    exact ⟨codes, hc, (Except.ok.inj h).symm⟩

theorem demodBody_ok {s t : State} (h : demodBody s = .ok t) : ∃ u, anlzBody s = .ok u ∧ decBody u = .ok t := by
  unfold demodBody at h
  split at h
  · cases h
  · rename_i u hu
    exact ⟨u, hu, h⟩

/-- Everything a body can change (R80); a body writes no flag, no parameter, no control register and no field of the
model's own. -/
theorem bodyOf_frame {i : Instr} {s t : State} (h : bodyOf i s = .ok t) :
    t = { s with
      smpmem := t.smpmem, specmem := t.specmem, frmmem := t.frmmem, rxmem := t.rxmem
      slen := t.slen, nfrm := t.nfrm, phase := t.phase, toff := t.toff
      peak := t.peak, peakmag := t.peakmag, freq := t.freq
      nbits := t.nbits, errcnt := t.errcnt, errpos := t.errpos } := by
  cases i with
  | nop => cases h; rfl
  | check => cases h; rfl
  | mod n => obtain ⟨_, _, rfl⟩ := modBody_ok h; rfl
  | xfrm j => obtain ⟨_, _, rfl⟩ := xfrmBody_ok h; rfl
  | xtrc => obtain ⟨_, _, _, _, rfl⟩ := xtrcBody_ok h; rfl
  | anlz => rw [anlzBody_frame h]
  | dec => obtain ⟨_, _, rfl⟩ := decBody_ok h; rfl
  | demod =>
    obtain ⟨u, hu, hd⟩ := demodBody_ok h
    obtain ⟨_, _, rfl⟩ := decBody_ok hd
    rw [anlzBody_frame hu]

theorem incompleteCount_le (codes : List (BitVec 2)) : incompleteCount codes ≤ codes.length := by
  induction codes with
  | nil => simp [incompleteCount]
  | cons v vs ih =>
    simp only [incompleteCount, List.length_cons]
    split <;> omega

end Sys2Proof.Machine
end

