-- ==== Sys2Proof/Laws/Bus.lean ====
section
/-! SUPPORT. The host's transactions (spec/20_memory.md R61 to R63), said once: where an address leads, and what a read
and a write can change. -/

namespace Sys2Proof.Machine

/-- The depth of each memory (spec/00_scope.md R5). -/
def depthOf : Space → Nat
  | .specmem => Config.specDepth
  | .smpmem => Config.smpDepth
  | .txmem => Config.bitDepth
  | .rxmem => Config.bitDepth
  | .frmmem => Config.frmDepth

theorem registerAt_ne_entry (n : Nat) (sp : Space) (i : Nat) : registerAt n ≠ .entry sp i := by
  unfold registerAt
  split <;> simp

/-- An address that reaches a memory entry reaches one below the memory's depth (R61). -/
theorem targetOf_entry_lt {addr : Addr} {sp : Space} {i : Nat} (h : targetOf addr = .entry sp i) : i < depthOf sp := by
  unfold targetOf at h
  split at h
  · cases h
  split at h
  · exact absurd h (registerAt_ne_entry _ _ _)
  split at h
  · cases h
    simp only [depthOf, Config.specDepth]
    omega
  split at h
  · cases h
  split at h
  · cases h
    simp only [depthOf, Config.smpDepth]
    omega
  split at h
  · cases h
    simp only [depthOf, Config.bitDepth]
    omega
  split at h
  · cases h
    simp only [depthOf, Config.bitDepth]
    omega
  split at h
  · cases h
    simp only [depthOf, Config.frmDepth]
    omega
  · cases h

/-- Everything a read can do: it answers a word, or draws one, with at most one of ADDRERR and BUSYERR set. -/
theorem busRead_cases (addr : Addr) (s : State) :
    busRead addr s = s.raiseAddress.answer 0 ∨ (∃ v, busRead addr s = s.answer v) ∨
    (s.status.busy = true ∧ busRead addr s = gatedRead s) ∨ (∃ f, busRead addr s = s.answerFree f) := by
  unfold busRead
  split
  · exact .inl rfl
  · exact .inl rfl
  · split
    · exact .inr (.inl ⟨_, rfl⟩)
    · split
      · rename_i hb
        exact .inr (.inr (.inl ⟨hb, rfl⟩))
      · exact .inr (.inl ⟨_, rfl⟩)
  · split
    · rename_i hb
      exact .inr (.inr (.inl ⟨hb, rfl⟩))
    · split
      · exact .inr (.inl ⟨_, rfl⟩)
      · exact .inr (.inr (.inr ⟨_, rfl⟩))

/-- A read changes only the two sticky bits of R62 and the model's own `rdata` and `draws`. -/
theorem busRead_frame (addr : Addr) (s : State) : busRead addr s =
    { s with
      esticky := (busRead addr s).esticky, rdata := (busRead addr s).rdata, draws := (busRead addr s).draws } := by
  rcases busRead_cases addr s with h | ⟨v, h⟩ | ⟨-, h⟩ | ⟨f, h⟩ <;> rw [h] <;> rfl

/-- Everything a write can do. -/
theorem busWrite_cases (addr : Addr) (data : Word) (s : State) :
    busWrite addr data s = s.raiseAddress ∨ (s.status.busy = true ∧ busWrite addr data s = s.raiseBusy) ∨
    (s.status.busy = false ∧ ((∃ r, targetOf addr = .register r ∧ busWrite addr data s = writeRegister data s r) ∨
      ∃ sp i, targetOf addr = .entry sp i ∧ i < depthOf sp ∧ busWrite addr data s = writeEntry data s sp i)) := by
  unfold busWrite
  split
  · exact .inl rfl
  · exact .inl rfl
  · rename_i r hr
    cases hb : s.status.busy
    · exact .inr (.inr ⟨rfl, .inl ⟨r, hr, by simp⟩⟩)
    · exact .inr (.inl ⟨rfl, by simp⟩)
  · rename_i sp i ht
    cases hb : s.status.busy
    · exact .inr (.inr ⟨rfl, .inr ⟨sp, i, ht, targetOf_entry_lt ht, by simp⟩⟩)
    · exact .inr (.inl ⟨rfl, by simp⟩)

end Sys2Proof.Machine
end

