-- ==== Sys2Proof/Laws/PerInstr.lean ====
section
/-! SUPPORT. Statements made for each command: the fields of its word (spec/30_encoding.md R90, R91). -/

namespace Sys2Proof.Laws.FieldsOfWord

/-- The word of a well-formed command has the command's OPC in bits 31:24 and its operand in bits 23:0. -/
def Statement (i : Instr) : Prop :=
  i.wf = true → opcOf (encode i) = opcode i ∧ argOf (encode i) = operandField i

/-- The two fields of a word put together from them. -/
theorem fields (opc : BitVec 8) (arg : BitVec 24) :
    opcOf (BitVec.ofNat 32 (2 ^ 24 * opc.toNat + arg.toNat)) = opc ∧
    argOf (BitVec.ofNat 32 (2 ^ 24 * opc.toNat + arg.toNat)) = arg := by
  have h1 := opc.isLt
  have h2 := arg.isLt
  constructor <;> apply BitVec.eq_of_toNat_eq <;>
    simp only [opcOf, argOf, BitVec.extractLsb'_toNat, BitVec.toNat_ofNat, Nat.shiftRight_eq_div_pow] <;> omega

theorem nop : Statement .nop := fun _ => fields _ _

theorem check : Statement .check := fun _ => fields _ _

theorem mod (n : Nat) : Statement (.mod n) := fun _ => fields _ _

theorem xfrm (j : Nat) : Statement (.xfrm j) := fun _ => fields _ _

theorem xtrc : Statement .xtrc := fun _ => fields _ _

theorem anlz : Statement .anlz := fun _ => fields _ _

theorem dec : Statement .dec := fun _ => fields _ _

theorem demod : Statement .demod := fun _ => fields _ _

end Sys2Proof.Laws.FieldsOfWord
end

