-- ==== Sys2Proof/Laws/Step.lean ====
section
/-! SUPPORT. Everything one step can do, said once (spec/00_scope.md R4; spec/44_control.md R190). -/

namespace Sys2Proof.Machine

/-! ### The reset event: registers and memories as `State.reset` has them, the model's own fields kept -/

@[simp] theorem hardReset_status (s : State) : (hardReset s).status = State.reset.status := rfl
@[simp] theorem hardReset_cfgcause (s : State) : (hardReset s).cfgcause = Causes.none := rfl
@[simp] theorem hardReset_esticky (s : State) : (hardReset s).esticky = Sticky.clear := rfl
@[simp] theorem hardReset_cmdlatch (s : State) : (hardReset s).cmdlatch = State.reset.cmdlatch := rfl
@[simp] theorem hardReset_smpmem (s : State) : (hardReset s).smpmem = [] := rfl
@[simp] theorem hardReset_txmem (s : State) : (hardReset s).txmem = [] := rfl
@[simp] theorem hardReset_rxmem (s : State) : (hardReset s).rxmem = [] := rfl
@[simp] theorem hardReset_frmmem (s : State) : (hardReset s).frmmem = [] := rfl
@[simp] theorem hardReset_specmem (s : State) : (hardReset s).specmem = [] := rfl
@[simp] theorem hardReset_turns (s : State) : (hardReset s).turns = s.turns := rfl
@[simp] theorem hardReset_rdata (s : State) : (hardReset s).rdata = s.rdata := rfl
@[simp] theorem hardReset_draws (s : State) : (hardReset s).draws = s.draws := rfl

/-! ### One step -/

/-- CORE's turn that answers a next state: nothing where BUSY = 0, else the latched command or the end of an illegal
word. -/
theorem coreTurn_next {s t : State} (h : coreTurn s = .next t) :
    (s.status.busy = false ∧ t = s) ∨
    (s.status.busy = true ∧ ∃ i, decode s.cmdlatch = .cmd i ∧ exec i s = .next t) ∨
    (s.status.busy = true ∧ ∃ why, decode s.cmdlatch = .illegal why ∧ t = s.complete .command false) := by
  unfold coreTurn at h
  split at h
  · rename_i hb
    split at h
    · rename_i i hi
      exact .inr (.inl ⟨hb, i, hi, h⟩)
    · rename_i why hw
      exact .inr (.inr ⟨hb, why, hw, by simpa [execIllegal] using h.symm⟩)
  · rename_i hb
    exact .inl ⟨by simpa using hb, by simpa using h.symm⟩

/-- A step that answers a next state is CORE's turn, one bus transaction or a reset. -/
theorem step_next {s t : State} (h : step s = .next t) :
    (∃ rest, (s.turns = .core :: rest ∨ (s.turns = [] ∧ rest = [])) ∧ coreTurn { s with turns := rest } = .next t) ∨
    (∃ addr rest, s.turns = .read addr :: rest ∧ t = busRead addr { s with turns := rest }) ∨
    (∃ addr data rest, s.turns = .write addr data :: rest ∧ t = busWrite addr data { s with turns := rest }) ∨
    (∃ rest, s.turns = .reset :: rest ∧ t = hardReset { s with turns := rest }) := by
  unfold step at h
  split at h
  · rename_i hs
    refine .inl ⟨[], .inr ⟨hs, rfl⟩, ?_⟩
    rw [← h, ← hs]
  · rename_i turn rest hs
    cases turn with
    | core => exact .inl ⟨rest, .inl hs, h⟩
    | read addr => exact .inr (.inl ⟨addr, rest, hs, (Host.Outcome.next.inj h).symm⟩)
    | write addr data => exact .inr (.inr (.inl ⟨addr, data, rest, hs, (Host.Outcome.next.inj h).symm⟩))
    | reset => exact .inr (.inr (.inr ⟨rest, hs, (Host.Outcome.next.inj h).symm⟩))

/-- The machine never refuses. -/
theorem step_not_refused (s : State) (r : Refusal) : step s ≠ .refused r := by
  have hcore : ∀ s, coreTurn s ≠ .refused r := by
    intro s
    unfold coreTurn
    split
    · split
      · rw [exec_eq_runCommand]
        exact runCommand_not_refused
      · simp [execIllegal]
    · simp
  unfold step
  split
  · exact hcore s
  · rename_i turn rest hs
    cases turn <;> simp [serveTurn, hcore]

end Sys2Proof.Machine
end

