-- ==== Sys2Proof/Tests/Slice0.lean ====
section
/-! SUPPORT. The model's own tests. Expected values come from the rules and vectors of the spec (V<n> is a vector of
spec/95_test_vectors.md), never from the model. -/

namespace Sys2Proof.Tests

open Sys2Proof.Machine
open Sys2Proof.Safety

/-! ### Small states -/

/-- Window 8, hop 4, 8 samples a bit, tones at bins 1.5 and 2.5, band of bins 1 to 3 (the setting of V39f and V56). -/
def small : State :=
  { State.reset with wlog2 := 3, hop := 4, spb := 8, fcenter := 0x40000000, fdev := 0x10000000, fmargin := 0x10000000 }

/-- `small` with the eight samples of V20. -/
def sine8 : State :=
  { small with slen := 8, smpmem := numbered 0 [0, 23170, 32767, 23170, 0, -23170, -32767, -23170] }

/-- `small` with the spectrum of V39f. -/
def spectrum8 : State := { small with specmem := numbered 0 [0, 10, 30, 20, 0] }

/-- `small` with the three frames of V56. -/
def frames3 : State :=
  { small with slen := 24, nfrm := 3, frmmem := numbered 0 [0xC0000005, 0xBFFFFFFB, 0xC0000005] }

/-- The reset state with one sample a bit and the bits of V12. -/
def bits4 : State := { State.reset with spb := 1, txmem := numbered 0 [1, 1, 0, 0] }

/-- A sample of -1, a bit of 1 and an incomplete position, the last at the end of its memory. -/
def sample1 : State := { State.reset with smpmem := [(0, -1)], txmem := [(1, 1)], rxmem := [(65535, 2)] }

/-- What `f` says of the next state. -/
def after {α : Type} (o : Host.Outcome State Fault Refusal) (f : State → α) : Option α := (nextState o).map f

/-! ### Well-formedness and decoding -/

theorem test_wf_mod_operand : Instr.wf (.mod (2 ^ 24)) = false ∧ Instr.wf (.mod (2 ^ 24 - 1)) = true := by decide

theorem test_wf_xfrm_operand : Instr.wf (.xfrm (2 ^ 24)) = false ∧ Instr.wf (.xfrm (2 ^ 24 - 1)) = true := by decide

/-- R90, R91: OPC in bits 31:24, ARG in bits 23:0, written out. -/
theorem test_decode_nop : decode 0b00000000000000000000000000000000 = .cmd .nop := by decide

theorem test_decode_check : decode 0b00000001000000000000000000000000 = .cmd .check := by decide

theorem test_decode_mod : decode 0b00000010100000000000000000000100 = .cmd (.mod 8388612) := by decide

theorem test_decode_xfrm : decode 0b00000011000000000000000100000001 = .cmd (.xfrm 257) := by decide

theorem test_decode_xtrc : decode 0b00000100000000000000000000000000 = .cmd .xtrc := by decide

theorem test_decode_anlz : decode 0b00000101000000000000000000000000 = .cmd .anlz := by decide

theorem test_decode_dec : decode 0b00000110000000000000000000000000 = .cmd .dec := by decide

theorem test_decode_demod : decode 0b00000111000000000000000000000000 = .cmd .demod := by decide

/-- R93: a reserved OPC, and a nonzero ARG where it must be 0. -/
theorem test_decode_illegal :
    decode 0b00001000000000000000000000000000 = .illegal (.opcode 8) ∧
    decode 0b00000111100000000000000000000000 = .illegal (.argument 7 0x800000) := by decide

theorem test_withFetchWord_runs :
    after (step (State.reset.withFetchWord 32 0x02000000)) (fun t => t.status.word) = some 0x00000202 := by decide

/-! ### Registers, bus, errors -/

/-- V5: a misaligned and an unmapped read return 0 and set ADDRERR; 0x1800 is SPECMEM[512], 0x1804 is unmapped. -/
theorem test_addresses :
    (busRead 0x1D State.reset).rdata = some 0 ∧ (busRead 0x1D State.reset).esticky.word = 0x20 ∧
    (busRead 0x68 State.reset).rdata = some 0 ∧ (busRead 0x1804 State.reset).esticky.word = 0x20 ∧
    (busRead 0x1800 (busWrite 0x1800 7 State.reset)).rdata = some 7 := by decide

/-- V6: the checked write to SMPMEM. -/
theorem test_sample_write :
    (busRead 0x40000 (busWrite 0x40000 0xFFFF8000 State.reset)).rdata = some 0xFFFF8000 ∧
    (busWrite 0x40000 0x00008000 State.reset).smpmem = [] ∧
    (busWrite 0x40000 0x00008000 State.reset).esticky.word = 0x08 := by decide

/-- V7: the checked write to TXMEM. -/
theorem test_bit_write :
    (busRead 0x80004 (busWrite 0x80004 1 State.reset)).rdata = some 1 ∧
    (busWrite 0x80004 0x80000001 State.reset).txmem = [] ∧
    (busWrite 0x80004 2 State.reset).esticky.word = 0x08 := by decide

/-- V2: reserved bits read 0. -/
theorem test_reserved_bits :
    (busRead 0x2C (busWrite 0x2C 0xFFFFFFF9 State.reset)).rdata = some 9 ∧
    (busRead 0x18 (busWrite 0x18 0xFFFFFFFE State.reset)).rdata = some 2 := by decide

/-- V8: the busy gate. -/
theorem test_busy_gate :
    (busRead 0x0C (State.reset.accept 0)).rdata = some 1 ∧
    (busWrite 0x28 5 (State.reset.accept 0)).spb = 441 ∧
    (busWrite 0x08 0x02000004 (State.reset.accept 0)).cmdlatch = 0 ∧
    (busWrite 0x08 0x02000004 (State.reset.accept 0)).esticky.word = 0x10 := by decide

/-- R45, R230, R231: after a reset with MOD 1 pending every entry is unwritten, STATUS is 0 and nothing runs. -/
theorem test_reset_unwrites :
    (hardReset (State.accept 0x02000001 { bits4 with smpmem := numbered 0 [5, 6] })).smpmem = [] ∧
    (hardReset (bits4.accept 0x02000001)).txmem = [] ∧
    after (coreTurn (hardReset (bits4.accept 0x02000001))) (fun t => (t.status.word, t.spb)) = some (0, 441) := by decide

/-- R62 step 6: a sample reads sign-extended, a bit and a code zero-extended. -/
theorem test_idle_entry_reads :
    (busRead 0x40000 sample1).rdata = some 0xFFFFFFFF ∧ (busRead 0x80004 sample1).rdata = some 1 ∧
    (busRead 0xFFFFC sample1).rdata = some 2 := by decide

/-- V60: a reserved opcode completes with CMDERR alone. -/
theorem test_illegal_word : after (coreTurn (State.reset.accept 0xFF000000))
    (fun t => (t.status.word, t.cfgcause.word, t.esticky.word)) = some (0x0000FF12, 0, 4) := by decide

/-! ### Commands -/

/-- V8: `NOP`. -/
theorem test_nop : after (coreTurn (State.reset.accept 0)) (fun t => (t.status.word, t.esticky.word)) =
    some (0x00000002, 0) := by decide

/-- The example of R195: `CHECK` from reset, and after `WR FDEV, 0`. -/
theorem test_check :
    after (coreTurn (State.reset.accept 0x01000000)) (fun t => (t.status.word, t.cfgcause.word)) =
      some (0x00000102, 0) ∧
    after (coreTurn (State.accept 0x01000000 { State.reset with fdev := 0 }))
      (fun t => (t.status.word, t.cfgcause.word)) = some (0x00000106, 2) := by decide

/-- V12: one sample a bit. -/
theorem test_mod : after (coreTurn (bits4.accept 0x02000004))
    (fun t => (t.status.word, t.slen, t.phase, t.smpmem)) =
      some (0x00000202, 4, 0xE833157C, numbered 0 [0, 32663, 5007, -30571]) := by decide

/-- V13: the check comes before the empty case. -/
theorem test_mod_checks : after (coreTurn (State.accept 0x02000000 { State.reset with spb := 0 }))
    (fun t => (t.status.word, t.cfgcause.word, t.esticky.word)) = some (0x00000206, 0x010, 1) := by decide

/-- V20 and the worked example of R137. -/
theorem test_xfrm : after (coreTurn (sine8.accept 0x03000000)) (fun t => (t.status.word, t.toff, t.specmem)) =
    some (0x00000302, 0, numbered 0 [4, 65529, 32764, 1, 2]) := by decide

/-- V23: a frame that does not exist. -/
theorem test_xfrm_range : after (coreTurn (sine8.accept 0x03000001))
    (fun t => (t.status.word, t.esticky.word, t.specmem)) = some (0x00000312, 4, []) := by decide

/-- The worked example of R137: the load and the first stage. -/
theorem test_fft_stages :
    fftLoad 3 [0, 3392, 16382, 19775, 0, -19776, -16383, -3393] =
      [(0, 0), (0, 0), (16382, 0), (-16383, 0), (3392, 0), (-19776, 0), (19775, 0), (-3393, 0)] ∧
    (fftStage 1 4 (fftLoad 3 [0, 3392, 16382, 19775, 0, -19776, -16383, -3393])).map Prod.fst =
      [0, 0, -1, 32765, -16384, 23168, 16382, 23168] := by decide

/-- V39f: the smallest window, the band closed at both ends. -/
theorem test_xtrc : after (coreTurn (spectrum8.accept 0x04000000)) (fun t => (t.peak, t.peakmag, t.freq)) =
    some (2, 30, 0xC5555555) := by decide

/-- V32: the quotient of the refinement is rounded toward zero. -/
theorem test_xtrc_toward_zero : after (coreTurn (State.accept 0x04000000
      { State.reset with specmem := numbered 52 [0, 0, 0, 0, 0, 0, 0, 1001, 3000, 1000, 0, 0, 0] }))
    (fun t => (t.status.word, t.peak, t.peakmag, t.freq)) = some (0x00000402, 60, 3000, 0xBBFFF7CF) := by decide

/-- V20's spectrum under R152 to R154: bin 1, `delta = tdiv((32764 - 4) × 2^28, 98290) = 89469381`. -/
theorem test_anlz : after (coreTurn (sine8.accept 0x05000000))
    (fun t => ((t.status.word, t.nfrm), t.peak, t.peakmag, t.frmmem)) =
      some ((0x00000502, 1), 1, 65529, numbered 0 [0xA55531C5]) := by decide

/-- V41: a buffer one sample short of a window gives no frame. -/
theorem test_anlz_short : after (coreTurn (State.accept 0x05000000 { sine8 with slen := 7, nfrm := 9 }))
    (fun t => (t.status.word, t.nfrm, t.frmmem)) = some (0x00000502, 0, []) := by decide

/-- V56: a centre on a boundary belongs to the window it opens; the midpoint gives 0; no frame is an error. -/
theorem test_dec : after (coreTurn (frames3.accept 0x06000000))
    (fun t => (t.status.word, t.rxmem, t.nbits, t.errcnt, t.errpos)) =
      some (0x0000060A, numbered 0 [1, 0, 2], 3, 1, 2) := by decide

/-- V55: no frames at all. -/
theorem test_dec_no_frames : after (coreTurn (State.accept 0x06000000 { State.reset with slen := 882 }))
    (fun t => (t.status.word, t.rxmem, t.errcnt, t.errpos)) =
      some (0x0000060A, numbered 0 [2, 2], 2, 0) := by decide

/-- The frame of `test_anlz` lies below the midpoint `2^30`: bit 0 (R174). -/
theorem test_demod : after (coreTurn (sine8.accept 0x07000000))
    (fun t => ((t.status.word, t.nfrm), (t.rxmem, t.nbits), t.errcnt, t.errpos)) =
      some ((0x00000702, 1), (numbered 0 [0], 1), 0, 0xFFFFFFFF) := by decide

/-- V53d: the empty buffer. -/
theorem test_demod_empty : after (coreTurn (State.reset.accept 0x07000000))
    (fun t => ((t.status.word, t.nfrm), (t.rxmem, t.nbits), t.errcnt, t.errpos)) =
      some ((0x00000702, 0), ([], 0), 0, 0xFFFFFFFF) := by decide

/-! ### Witnesses: a state and operands that meet the hypotheses of each statement of Obligations.lean -/

/-- The largest legal upper tone (`F1 = 2^31 - 1`) and the smallest legal lower tone (`F0 = 1`). -/
def edgeTones : State := { State.reset with fcenter := 0x40000000, fdev := 0x3FFFFFFF }

/-- Every cause false, both capacities reached. -/
def full : State := { small with slen := 65536, nfrm := 65536 }

/-- A window the hardware cannot take, everything else legal. -/
def wideWindow : State := { State.reset with wlog2 := 11 }

/-- More samples, and more frames, than the memories hold. -/
def overfull : State := { small with slen := 65537, nfrm := 65537 }

/-- A pending illegal word. -/
def pendingIllegal : State := State.reset.accept 0x08000000

theorem witness_DecodeEncodeRoundTrip :
    Instr.wf (.mod 16777215) = true ∧ Instr.wf (.xfrm 0) = true ∧ Instr.wf .nop = true := by decide

theorem witness_EncodeDecodeRoundTrip :
    decode 0x02FFFFFF = .cmd (.mod 16777215) ∧ decode 0x07000000 = .cmd .demod := by decide

theorem witness_IllegalWordsRaiseCommandError :
    State.reset.status.busy = false ∧ decode 0x08000000 = .illegal (.opcode 8) ∧ pendingIllegal.status.busy = true ∧
    pendingIllegal.cmdlatch = 0x08000000 := by decide

theorem witness_CommandAcceptance :
    State.reset.status.busy = false ∧ pendingIllegal.status.busy = true := by decide

theorem witness_TonesAreDerived :
    edgeTones.status.busy = false ∧ TonesLegal edgeTones ∧
    TonesLegal { State.reset with fcenter := 0x7FFFFFFE, fdev := 1 } := by decide

theorem witness_StickyClearedOnlyByHost : ∃ t, step { pendingIllegal with turns := [.write 0x14 0x3F] } = .next t ∧
    State.reset.status.busy = false := ⟨_, rfl, rfl⟩

theorem witness_MisalignedAndUnmappedAccesses :
    (0x000001 : Addr).toNat % 4 ≠ 0 ∧ (0x000068 ≤ (0x000068 : Addr).toNat ∧ (0x000FFF : Addr).toNat < 0x001000) ∧
    (0x001804 ≤ (0x001804 : Addr).toNat ∧ (0x03FFFF : Addr).toNat < 0x040000) ∧
    0x140000 ≤ (0x140000 : Addr).toNat := by decide

theorem witness_AddressMap :
    ([Reg.id, .cap, .cmd, .status, .cfgcause, .esticky, .ctrl, .fcenter, .fdev, .fmargin, .spb, .wlog2, .hop] ++
      [.mthresh, .slen, .nfrm, .f0, .f1, .phase, .toff, .peak, .peakmag, .freq, .nbits, .errcnt, .errpos])[25]? =
      some .errpos ∧ 512 ≤ 512 ∧ 65535 < 65536 := by decide

theorem witness_BusGate :
    pendingIllegal.status.busy = true ∧ (0x13FFFC : Addr).toNat % 4 = 0 ∧
    (0x040000 ≤ (0x13FFFC : Addr).toNat ∧ (0x13FFFC : Addr).toNat < 0x140000) ∧ (0x000064 : Addr).toNat < 0x000068 ∧
    (0x001000 ≤ (0x001800 : Addr).toNat ∧ (0x001800 : Addr).toNat < 0x001804) ∧ (0x13FFFC : Addr) ≠ 0x00 ∧
    (0x13FFFC : Addr) ≠ 0x04 ∧ (0x13FFFC : Addr) ≠ 0x0C := by decide

theorem witness_RegisterFieldsAsRead : sample1.status.busy = false ∧ 512 ≤ 512 ∧ 65535 < 65536 ∧
    Memory.read sample1.rxmem 65535 = some 2 ∧ Memory.read sample1.smpmem 0 = some (-1) ∧
    Memory.read sample1.smpmem 65535 = none := by decide

theorem witness_SampleWriteIsChecked :
    State.reset.status.busy = false ∧ 65535 < 65536 ∧ (0xFFFF8000 : Word) = ((0xFFFF8000 : Word).setWidth 16).signExtend 32 ∧
    (0x00008000 : Word) ≠ ((0x00008000 : Word).setWidth 16).signExtend 32 := by decide

theorem witness_BitWriteIsChecked :
    State.reset.status.busy = false ∧ 65535 < 65536 ∧ ((1 : Word) = 0 ∨ (1 : Word) = 1) ∧
    ¬((2 : Word) = 0 ∨ (2 : Word) = 1) := by decide

theorem witness_PlainWrites : State.reset.status.busy = false ∧ 512 ≤ 512 ∧ 65535 < 65536 := by decide

theorem witness_InterruptLine : State.reset.status.busy = false ∧ (2 : Word).getLsbD 1 = true ∧
    pendingIllegal.status.busy = true ∧ ∃ t, coreTurn pendingIllegal = .next t := ⟨rfl, rfl, rfl, _, rfl⟩

theorem witness_StepRunsLatchedCommand :
    (State.reset.accept 0).turns = [] ∧ (State.reset.accept 0).status.busy = true ∧
    decode (State.reset.accept 0).cmdlatch = .cmd .nop ∧ State.reset.status.busy = false := by decide

theorem witness_StepServesTurns : 0x02000004 < 2 ^ 32 ∧ decodeTableWord 32 0x02000004 = some (.mod 4) := by decide

theorem witness_CompletionRecordsErrors :
    (∃ t, exec .dec frames3 = .next t) ∧ judge .dec frames3 = .nothing ∧ (∃ t, exec (.xfrm 1) sine8 = .next t) ∧
    judge (.xfrm 1) sine8 = .command ∧ judge (.mod 0) { State.reset with spb := 0 } =
      .configuration { Causes.none with spb0 := true } := ⟨⟨_, rfl⟩, rfl, ⟨_, rfl⟩, rfl, rfl⟩

theorem witness_ConfigurationErrorRunsNoBody : heldCauses .check { State.reset with fdev := 0 } ≠ Causes.none := by
  decide

theorem witness_CheckPassesWhenLegal :
    AllLegal full ∧ full.slen.toNat ≤ 65536 ∧ full.nfrm.toNat ≤ 65536 ∧ 8192 ≤ 65536 ∧
    8192 * full.spb.toNat ≤ 65536 := by decide

theorem witness_DemodulatorChecks :
    ¬(TonesLegal wideWindow ∧ WindowLegal wideWindow ∧ BandLegal wideWindow) ∧
    ¬(AllLegal overfull ∧ overfull.slen.toNat ≤ 65536) ∧
    ¬(AllLegal overfull ∧ overfull.slen.toNat ≤ 65536 ∧ overfull.nfrm.toNat ≤ 65536) := by decide

theorem witness_NopCompletes : (0xFFFFFF : BitVec 24) ≠ 0 := by decide

theorem witness_CommandsWriteOnlyTheirFootprint : ∃ t, exec (.mod 4) bits4 = .next t ∧ t.phase ≠ bits4.phase ∧
    writtenBelow (.mod 4) .smpmem bits4 ≤ 4 ∧ writtenBelow (.mod 4) .txmem bits4 ≤ 0 := ⟨_, rfl, by decide⟩

theorem witness_ModChecksBeforeAnySample :
    ¬(TonesLegal State.reset ∧ State.reset.spb.toNat ≠ 0 ∧ 149 ≤ 65536 ∧ 149 * State.reset.spb.toNat ≤ 65536) := by
  decide

theorem witness_ModSynthesises :
    TonesLegal bits4 ∧ bits4.spb.toNat ≠ 0 ∧ 4 ≤ 65536 ∧ 4 * bits4.spb.toNat ≤ 65536 ∧
    written bits4.txmem 0 4 = true ∧ 1 * ({ bits4 with spb := 65536 } : State).spb.toNat ≤ 65536 ∧
    written bits4.txmem 0 1 = true := by decide

theorem witness_ModEmptyInput :
    TonesLegal State.reset ∧ State.reset.spb.toNat ≠ 0 ∧ ({ State.reset with spb := 0 } : State).spb.toNat = 0 := by
  decide

theorem witness_ModPreservesLength : ∃ t, exec (.mod 4) bits4 = .next t ∧ t.status.cfgErr = false :=
  ⟨_, rfl, by decide⟩

theorem witness_UnwrittenReadsStop :
    judge (.mod 5) bits4 = .nothing ∧ 4 < 5 ∧ Memory.read bits4.txmem 4 = none ∧
    (∀ k, k < 4 → (Memory.read bits4.txmem k).isSome = true) ∧ judge (.xfrm 0) { small with slen := 8 } = .nothing ∧
    0 < 2 ^ small.wlog2.toNat ∧ Memory.read small.smpmem (0 * small.hop.toNat + 0) = none := by decide

/-- The band of `small` is bins 1 to 3; bin 3 is unwritten here. -/
theorem witness_UnwrittenReadsStop_band : judge .xtrc { small with specmem := numbered 1 [10, 30] } = .nothing ∧
    binLow small ≤ 3 ∧ 3 ≤ binHigh small ∧ Memory.read (numbered 1 [10, 30] : Memory 32) 3 = none ∧
    (∀ k, k < 3 → 1 ≤ k → (Memory.read (numbered 1 [10, 30] : Memory 32) k).isSome = true) := by decide

/-- The peak is bin 1, the first of the band, and its lower neighbour, bin 0, is unwritten. -/
def peakFirst : State := { small with specmem := numbered 1 [30, 20, 10] }

/-- The peak is bin 3, the last of the band, its lower neighbour is written and its upper one, bin 4, is not. -/
def peakLast : State := { small with specmem := numbered 1 [10, 20, 30] }

theorem band_peakFirst {i : Nat} {v : Word} (h : Memory.read peakFirst.specmem i = some v) : v.toNat ≤ 30 := by
  simp only [peakFirst, numbered, Memory.read] at h
  split at h <;> (try split at h) <;> (try split at h) <;> cases h <;> decide

theorem band_peakLast {i : Nat} {v : Word} (h : Memory.read peakLast.specmem i = some v) :
    v.toNat ≤ 30 ∧ (i < 3 → v.toNat < 30) := by
  simp only [peakLast, numbered, Memory.read] at h
  split at h <;> (try split at h) <;> (try split at h) <;> cases h <;> subst_vars <;> decide

theorem witness_UnwrittenReadsStop_lower :
    judge .xtrc peakFirst = .nothing ∧ peakFirst.ctrl.interp = true ∧
    written peakFirst.specmem (binLow peakFirst) (binHigh peakFirst + 1 - binLow peakFirst) = true ∧
    binLow peakFirst ≤ 1 ∧ 1 ≤ binHigh peakFirst ∧ Memory.read peakFirst.specmem 1 = some 30 ∧
    (∀ i v, binLow peakFirst ≤ i → i ≤ binHigh peakFirst → Memory.read peakFirst.specmem i = some v → v.toNat ≤ 30) ∧
    (∀ i (v : Word), binLow peakFirst ≤ i → i < 1 → Memory.read peakFirst.specmem i = some v → v.toNat < 30) ∧
    Memory.read peakFirst.specmem (1 - 1) = none :=
  ⟨by decide, by decide, by decide, by decide, by decide, by decide, fun _ _ _ _ h => band_peakFirst h,
    fun i _ h1 h2 => absurd (show 1 ≤ i from h1) (by omega), by decide⟩

theorem witness_UnwrittenReadsStop_upper :
    judge .xtrc peakLast = .nothing ∧ peakLast.ctrl.interp = true ∧
    written peakLast.specmem (binLow peakLast) (binHigh peakLast + 1 - binLow peakLast) = true ∧
    binLow peakLast ≤ 3 ∧ 3 ≤ binHigh peakLast ∧ Memory.read peakLast.specmem 3 = some 30 ∧
    (∀ i v, binLow peakLast ≤ i → i ≤ binHigh peakLast → Memory.read peakLast.specmem i = some v → v.toNat ≤ 30) ∧
    (∀ i (v : Word), binLow peakLast ≤ i → i < 3 → Memory.read peakLast.specmem i = some v → v.toNat < 30) ∧
    (Memory.read peakLast.specmem (3 - 1)).isSome = true ∧ Memory.read peakLast.specmem (3 + 1) = none :=
  ⟨by decide, by decide, by decide, by decide, by decide, by decide, fun _ _ _ _ h => (band_peakLast h).1,
    fun _ _ _ h2 h => (band_peakLast h).2 h2, by decide, by decide⟩

/-- Two frames, of which the second lacks its last sample. -/
theorem witness_UnwrittenReadsStop_frames :
    judge .anlz { sine8 with slen := 12, smpmem := numbered 0 [0, 1, 2, 3, 4, 5, 6, 7, 8, 9, 10] } = .nothing ∧
    judge .demod { sine8 with slen := 12, smpmem := numbered 0 [0, 1, 2, 3, 4, 5, 6, 7, 8, 9, 10] } = .nothing ∧
    1 < frameCount { sine8 with slen := 12 } ∧ 7 < 2 ^ sine8.wlog2.toNat ∧
    Memory.read (numbered 0 [0, 1, 2, 3, 4, 5, 6, 7, 8, 9, 10] : Memory 16) (1 * sine8.hop.toNat + 7) = none ∧
    (∀ k, k < 7 →
      (Memory.read (numbered 0 [0, 1, 2, 3, 4, 5, 6, 7, 8, 9, 10] : Memory 16) (4 + k)).isSome = true) ∧
    written (numbered 0 [0, 1, 2, 3, 4, 5, 6, 7, 8, 9, 10] : Memory 16) 0 8 = true := by decide

/-- V56 with its third frame unwritten. -/
theorem witness_UnwrittenReadsStop_dec : judge .dec { frames3 with frmmem := numbered 0 [0, 0] } = .nothing ∧
    2 < frames3.nfrm.toNat ∧
    2 * frames3.hop.toNat + 2 ^ frames3.wlog2.toNat / 2 < bitCount frames3 * frames3.spb.toNat ∧
    Memory.read (numbered 0 [0, 0] : Memory 32) 2 = none ∧
    (∀ k, k < 2 → (Memory.read (numbered 0 [0, 0] : Memory 32) k).isSome = true) := by decide

theorem witness_FramesAreWholeWindows :
    sine8.hop.toNat ≠ 0 ∧ 2 ^ sine8.wlog2.toNat ≤ sine8.slen.toNat ∧
    ({ sine8 with slen := 7 } : State).slen.toNat < 2 ^ sine8.wlog2.toNat := by decide

theorem witness_XfrmChecksBeforeTransform :
    ¬(WindowLegal wideWindow ∧ wideWindow.hop.toNat ≠ 0 ∧ wideWindow.slen.toNat ≤ 65536) ∧ WindowLegal sine8 ∧
    sine8.hop.toNat ≠ 0 ∧ sine8.slen.toNat ≤ 65536 ∧
    sine8.slen.toNat < 1 * sine8.hop.toNat + 2 ^ sine8.wlog2.toNat := by decide

theorem witness_HannWindowing :
    3 ≤ 10 ∧ 10 ≤ 10 ∧ 0 < 2 ^ 3 ∧ 1 ≤ 2 ^ 3 - 1 ∧ ([-32768] : List Int)[0]? = some (-32768) ∧
    (-32768 : Int) ≤ -32768 ∧ (32767 : Int) ≤ 32767 := by decide

theorem witness_LoadIsBitReversed : ([1, 2, 3, 4] : List Int).length = 2 ^ 2 ∧ 3 < 2 ^ 2 := by decide

theorem witness_StagesAreButterflies :
    1 ≤ 2 ∧ ([(1, 0), (2, 0), (3, 0), (4, 0)] : List (Int × Int)).length = 1 * 2 ^ 2 ∧ 0 < 1 ∧ 1 < 2 ^ (2 - 1) := by
  decide

theorem witness_TransformBounds :
    3 ≤ 3 ∧ 3 ≤ 10 ∧ (List.replicate 8 (-32767 : Int)).length = 2 ^ 3 ∧
    (∀ x ∈ List.replicate 8 (-32767 : Int), -32767 ≤ x ∧ x ≤ 32767) ∧ (0, 0) ∈ fft 3 (List.replicate 8 0) := by decide

theorem witness_SquareRootIsFloor : 3 * 3 ≤ 15 := by decide

theorem witness_XfrmCompletes :
    WindowLegal sine8 ∧ sine8.hop.toNat ≠ 0 ∧ sine8.slen.toNat ≤ 65536 ∧
    0 * sine8.hop.toNat + 2 ^ sine8.wlog2.toNat ≤ sine8.slen.toNat ∧
    written sine8.smpmem (0 * sine8.hop.toNat) (2 ^ sine8.wlog2.toNat) = true := by decide

theorem witness_BandIsClosed : WindowLegal small ∧ WindowLegal { small with wlog2 := 10 } := by decide

theorem witness_PeakIsLeastMaximum : ([0, 0] : List Nat) ≠ [] ∧ ∀ x ∈ ([0, 0] : List Nat), x = 0 := by decide

theorem witness_EstimateWithinHalfBin : 3 ≤ 10 ∧ 10 ≤ 10 ∧ 1 ≤ 511 ∧ 511 ≤ 2 ^ 10 / 2 - 1 := by decide

theorem witness_XtrcCompletes :
    TonesLegal spectrum8 ∧ WindowLegal spectrum8 ∧ BandLegal spectrum8 ∧
    written spectrum8.specmem (binLow spectrum8) (binHigh spectrum8 + 1 - binLow spectrum8) = true ∧
    spectrum8.ctrl.interp = true ∧
    written spectrum8.specmem (binLow spectrum8 - 1) (binHigh spectrum8 + 3 - binLow spectrum8) = true ∧
    ({ spectrum8 with ctrl := ⟨false, false⟩ } : State).ctrl.interp = false := by decide

theorem witness_AnlzCompletes :
    AllLegal sine8 ∧ sine8.slen.toNat ≤ 65536 ∧ frameCount sine8 = 1 ∧
    (∀ j, j < 1 → written sine8.smpmem (j * sine8.hop.toNat) (2 ^ sine8.wlog2.toNat) = true) := by decide

theorem witness_AnlzShortBuffer :
    AllLegal { sine8 with slen := 7 } ∧ ({ sine8 with slen := 7 } : State).slen.toNat < 2 ^ sine8.wlog2.toNat := by
  decide

theorem witness_BitPositions : frames3.spb.toNat ≠ 0 ∧ 23 < frames3.slen.toNat ∧ 2 < bitCount frames3 := by decide

theorem witness_FrameMembership :
    frames3.spb.toNat ≠ 0 ∧ frames3.hop.toNat ≠ 0 ∧ 4 < frameCount frames3 ∧ 2 < bitCount frames3 ∧
    bitCount frames3 * frames3.spb.toNat ≤ 5 * frames3.hop.toNat + 2 ^ frames3.wlog2.toNat / 2 := by decide

theorem witness_DecCompletes :
    AllLegal frames3 ∧ frames3.slen.toNat ≤ 65536 ∧ frames3.nfrm.toNat ≤ 65536 ∧
    written frames3.frmmem 0 frames3.nfrm.toNat = true := by decide

theorem witness_TonesClassifyAsTheirBits : TonesLegal edgeTones ∧ 0 < 1 := by decide

theorem witness_DemodIsAnlzThenDec : AllLegal sine8 ∧ sine8.slen.toNat ≤ 65536 ∧ (∃ u, exec .anlz sine8 = .next u) ∧
    ∀ j, j < frameCount sine8 → written sine8.smpmem (j * sine8.hop.toNat) (2 ^ sine8.wlog2.toNat) = true :=
  ⟨by decide, by decide, ⟨_, rfl⟩, by decide⟩

theorem witness_EmptyBufferDecodesToNothing : AllLegal State.reset ∧ State.reset.slen.toNat = 0 := by decide

theorem witness_ResetEvent : ({ State.reset with turns := [.reset, .core] } : State).turns = [.reset, .core] := by
  decide

theorem witness_ResetAbandonsCommand : ∀ d, Turn.write 0x08 d ∉
    ({ bits4.accept 0x02000004 with turns := [.core, .write 0x80000 1, .read 0x80000, .reset] } : State).turns := by
  intro d
  simp

theorem witness_StepKeepsInv : ∃ s t, Inv s ∧ s.status.busy = true ∧ step s = .next t :=
  ⟨State.reset.accept 0, _, by constructor <;> decide, rfl, rfl⟩

theorem witness_PendingCommandEnds : (State.reset.accept 0).status.busy = true := by decide

theorem witness_HostCannotDisturbPendingCommand :
    (bits4.accept 0x02000004).status.busy = true ∧ Turn.write 0x08 0 ≠ .core ∧ Turn.write 0x08 0 ≠ .reset := by decide

end Sys2Proof.Tests
end

section
/-! PROOFS. The integer square root (spec/00_scope.md R6). -/

namespace Sys2Proof.Machine

/-- The invariant of the digit loop: with the root between `r` and `r + 2 ^ bits`, deciding the bits left finds it. -/
theorem isqrtFrom_eq_sqrt {n bits r : Nat} (hlo : r * r ≤ n) (hhi : n < (r + 2 ^ bits) * (r + 2 ^ bits)) :
    isqrtFrom n bits r = Nat.sqrt n := by
  induction bits generalizing r with
  | zero => exact Nat.eq_sqrt.mpr ⟨hlo, hhi⟩
  | succ bits ih =>
    have hsplit : r + 2 ^ (bits + 1) = r + 2 ^ bits + 2 ^ bits := by omega
    rw [isqrtFrom]
    split
    case isTrue hset => exact ih hset (hsplit ▸ hhi)
    case isFalse hclear => exact ih hlo (Nat.lt_of_not_le hclear)

/-- The loop of `isqrt` starts with enough bits: the root has at most `log2 n / 2 + 1` of them. -/
theorem lt_two_pow_half_log2_sq (n : Nat) : n < 2 ^ (n.log2 / 2 + 1) * 2 ^ (n.log2 / 2 + 1) :=
  calc n < 2 ^ (n.log2 + 1) := Nat.lt_log2_self
    _ ≤ 2 ^ (n.log2 / 2 + 1 + (n.log2 / 2 + 1)) := Nat.pow_le_pow_right (by decide) (by omega)
    _ = 2 ^ (n.log2 / 2 + 1) * 2 ^ (n.log2 / 2 + 1) := Nat.pow_add ..

theorem isqrt_eq_sqrt (n : Nat) : isqrt n = Nat.sqrt n :=
  isqrtFrom_eq_sqrt (Nat.zero_le n) (by simpa using lt_two_pow_half_log2_sq n)

/-- Settles O41: the loop computes the library's floor square root. -/
theorem squareRootIsFloor : Obligations.SquareRootIsFloor := by
  intro n
  rw [isqrt_eq_sqrt]
  exact ⟨Nat.sqrt_le n, fun _ hr => Nat.le_sqrt.mpr hr⟩

end Sys2Proof.Machine
end

section
/-! PROOFS. A step serves the turn listed first (spec/00_scope.md R4; log entries 1 and 9). -/

namespace Sys2Proof.Machine

theorem step_of_turns_cons {s : State} {t : Turn} {rest : List Turn} (h : s.turns = t :: rest) :
    step s = serveTurn t { s with turns := rest } := by
  simp only [step, h]

/-- CORE's turn runs the latched command where one is pending (R190, R191). -/
theorem coreTurn_of_cmd {s : State} {i : Instr} (hbusy : s.status.busy = true) (hcmd : decode s.cmdlatch = .cmd i) :
    coreTurn s = exec i s := by
  simp only [coreTurn, hbusy, hcmd, if_true]

/-- A table row of one command word's length is decoded as that word (R90). -/
theorem decodeTableWord_eq_some_iff {w : Nat} {i : Instr} (hw : w < 2 ^ 32) :
    decodeTableWord 32 w = some i ↔ decode (BitVec.ofNat 32 w) = .cmd i := by
  rw [decodeTableWord, Nat.mod_eq_of_lt hw, if_pos hw]
  cases decode (BitVec.ofNat 32 w) <;> simp

/-- The step after `withFetchWord` is CORE's turn on the accepted word. -/
theorem step_withFetchWord (s : State) {w : Nat} (hw : w < 2 ^ 32) :
    step (s.withFetchWord 32 w) = coreTurn (s.accept (BitVec.ofNat 32 w)) := by
  have hturns : (s.withFetchWord 32 w).turns = .core :: s.turns := rfl
  rw [step_of_turns_cons hturns, State.withFetchWord, Nat.mod_eq_of_lt hw]
  rfl

/-- Settles O20: the turn served is the head of the list; after `withFetchWord` it is CORE's, on the word given. -/
theorem stepServesTurns : Obligations.StepServesTurns := by
  refine ⟨fun s rest => ⟨?read, ?write, ?reset⟩, ?fetch⟩
  case read => exact fun _ h => step_of_turns_cons h
  case write => exact fun _ _ h => step_of_turns_cons h
  case reset => exact fun h => step_of_turns_cons h
  case fetch =>
    intro s w i hw hrow
    rw [step_withFetchWord s hw]
    exact coreTurn_of_cmd rfl ((decodeTableWord_eq_some_iff hw).mp hrow)

end Sys2Proof.Machine
end

section
/-! PROOFS. The registers behind their addresses (spec/10_state.md R22, spec/20_memory.md R61 to R63). -/

namespace Sys2Proof.Machine

/-! ### Where an address leads -/

/-- An address reaches a register exactly when it is the address of that register's row of R22. -/
theorem targetOf_eq_register_iff {addr : Addr} {r : Reg} :
    targetOf addr = .register r ↔ addr.toNat % 4 = 0 ∧ registerFile[addr.toNat / 4]? = some r := by
  have hat : registerAt (addr.toNat / 4) = .register r ↔ registerFile[addr.toNat / 4]? = some r := by
    rw [registerAt]
    split <;> simp_all
  constructor
  · intro h
    unfold targetOf at h
    split at h
    case isTrue => cases h
    case isFalse haligned =>
      split at h
      case isTrue => exact ⟨by simpa using haligned, hat.mp h⟩
      case isFalse => split_ifs at h
  · rintro ⟨haligned, hrow⟩
    have hlow : addr.toNat / 4 < 26 := (List.getElem?_eq_some_iff.mp hrow).1
    rw [targetOf, if_neg (not_not.mpr haligned), if_pos (by omega), hat.mpr hrow]

/-- Register `n` of R22 stands at byte offset `4 n`. -/
theorem targetOf_registerFile {n : Nat} {r : Reg} (h : registerFile[n]? = some r) :
    targetOf (BitVec.ofNat 21 (4 * n)) = .register r := by
  have hn : n < 26 := (List.getElem?_eq_some_iff.mp h).1
  have hmod : 4 * n % 2 ^ 21 = 4 * n := by omega
  rw [targetOf_eq_register_iff, BitVec.toNat_ofNat, hmod]
  exact ⟨Nat.mul_mod_right 4 n, by rwa [Nat.mul_div_cancel_left n (by decide)]⟩

/-- No two rows of R22 are the same register, so each register has one address. -/
theorem addr_eq_of_targetOf_register {addr : Addr} {r : Reg} {n : Nat} (hrow : registerFile[n]? = some r)
    (h : targetOf addr = .register r) : addr = BitVec.ofNat 21 (4 * n) := by
  obtain ⟨haligned, hat⟩ := targetOf_eq_register_iff.mp h
  have hn : n < registerFile.length := (List.getElem?_eq_some_iff.mp hrow).1
  have hrows : n = addr.toNat / 4 := (List.getElem?_inj hn (by decide)).mp (hrow.trans hat.symm)
  apply BitVec.eq_of_toNat_eq
  rw [BitVec.toNat_ofNat, Nat.mod_eq_of_lt (by have := addr.isLt; omega)]
  omega

/-! ### Reads and writes of a register -/

/-- STATUS, ID and CAP are served whatever BUSY is (R62 step 3). -/
theorem busRead_served {addr : Addr} {r : Reg} (s : State) (haddr : targetOf addr = .register r)
    (hserved : servedWhileBusy r = true) : busRead addr s = s.answer (readRegister s r) := by
  simp only [busRead, haddr, hserved, if_true]

/-- An idle host reads every register (R62 steps 3 and 5). -/
theorem busRead_register_of_idle {addr : Addr} {r : Reg} {s : State} (haddr : targetOf addr = .register r)
    (hidle : s.status.busy = false) : busRead addr s = s.answer (readRegister s r) := by
  simp [busRead, haddr, hidle]

theorem busWrite_register_of_idle {addr : Addr} {r : Reg} {s : State} (d : Word)
    (haddr : targetOf addr = .register r) (hidle : s.status.busy = false) :
    busWrite addr d s = writeRegister d s r := by
  simp [busWrite, haddr, hidle]

/-- The addresses of R22 with the word an idle host reads there. -/
def registerReads (s : State) : List (Addr × Word) :=
  registerFile.zipIdx.map fun row => (BitVec.ofNat 21 (4 * row.2), readRegister s row.1)

theorem busRead_of_mem_registerReads {s : State} (hidle : s.status.busy = false) {p : Addr × Word}
    (h : p ∈ registerReads s) : busRead p.1 s = s.answer p.2 := by
  obtain ⟨row, hrow, rfl⟩ := List.mem_map.mp h
  exact busRead_register_of_idle (targetOf_registerFile (List.mem_zipIdx_iff_getElem?.mp hrow)) hidle

/-! ### The register statements -/

/-- Settles O7: ID and CAP are served in every state. -/
theorem idAndCapReadConstants : Obligations.IdAndCapReadConstants := by
  refine ⟨fun s => ⟨?id, ?cap⟩, by decide⟩
  case id => rw [busRead_served (r := .id) s (by decide) rfl]; rfl
  case cap => rw [busRead_served (r := .cap) s (by decide) rfl]; rfl

/-- Settles O6: the table of R22 is the list of an idle host's reads at reset. -/
theorem resetStateReadsTable : Obligations.ResetStateReadsTable :=
  ⟨fun _ hp => by rw [busRead_of_mem_registerReads (s := State.reset) rfl hp]; rfl, rfl⟩

/-- Settles O9: F0 and F1 are read like any register and ignore writes; the checks of R192 keep both in range. -/
theorem tonesAreDerived : Obligations.TonesAreDerived := by
  intro s
  have hzero : (toneZero s).toNat = (s.fcenter.toNat + (2 ^ 32 - s.fdev.toNat)) % 2 ^ 32 := by
    rw [toneZero, BitVec.toNat_sub, Nat.add_comm]
  have hone : (toneOne s).toNat = (s.fcenter.toNat + s.fdev.toNat) % 2 ^ 32 := BitVec.toNat_add ..
  refine ⟨fun hidle d => ⟨?_, ?_, ?_, ?_⟩, hzero, hone, ?legal, rfl, rfl⟩
  · rw [busRead_register_of_idle (r := .f0) (by decide) hidle]; rfl
  · rw [busRead_register_of_idle (r := .f1) (by decide) hidle]; rfl
  · rw [busWrite_register_of_idle (r := .f0) d (by decide) hidle]; rfl
  · rw [busWrite_register_of_idle (r := .f1) d (by decide) hidle]; rfl
  case legal =>
    rintro ⟨-, hfd, hbelow, hnyquist⟩
    rw [hzero, hone]
    omega

end Sys2Proof.Machine
end

section
/-! PROOFS. The sticky error bits (spec/10_state.md R28). -/

namespace Sys2Proof.Machine

/-- Every bit set before is set after. -/
def Sticky.Kept (before after : Sticky) : Prop :=
  (before.cfgErr = true → after.cfgErr = true) ∧ (before.incomplete = true → after.incomplete = true) ∧
  (before.cmdErr = true → after.cmdErr = true) ∧ (before.fmtErr = true → after.fmtErr = true) ∧
  (before.busyErr = true → after.busyErr = true) ∧ (before.addrErr = true → after.addrErr = true)

theorem Sticky.Kept.refl (e : Sticky) : e.Kept e := ⟨id, id, id, id, id, id⟩

/-! ### What each operation keeps -/

section Operations

variable (s : State)

theorem kept_raiseFormat : s.esticky.Kept s.raiseFormat.esticky := ⟨id, id, id, fun _ => rfl, id, id⟩

theorem kept_raiseBusy : s.esticky.Kept s.raiseBusy.esticky := ⟨id, id, id, id, fun _ => rfl, id⟩

theorem kept_raiseAddress : s.esticky.Kept s.raiseAddress.esticky := ⟨id, id, id, id, id, fun _ => rfl⟩

theorem kept_complete (r : Raised) (b : Bool) : s.esticky.Kept (s.complete r b).esticky := by
  simp +contextual [Sticky.Kept]

theorem kept_busRead (addr : Addr) : s.esticky.Kept (busRead addr s).esticky := by
  obtain h | ⟨v, h⟩ | ⟨-, h⟩ | ⟨f, h⟩ := busRead_cases addr s <;> rw [h]
  · exact kept_raiseAddress s
  · exact .refl _
  · exact kept_raiseBusy s
  · exact .refl _

/-- Of the writes to a register only the one to ESTICKY touches the sticky bits. -/
theorem writeRegister_esticky (d : Word) {r : Reg} (hr : r ≠ .esticky) :
    (writeRegister d s r).esticky = s.esticky := by
  cases r with
  | esticky => exact absurd rfl hr
  | _ => rfl

theorem kept_writeEntry (d : Word) (sp : Space) (i : Nat) : s.esticky.Kept (writeEntry d s sp i).esticky := by
  cases sp with
  | smpmem =>
    rw [writeEntry]
    split
    · exact .refl _
    · exact kept_raiseFormat s
  | txmem =>
    rw [writeEntry]
    split
    · exact .refl _
    · exact kept_raiseFormat s
  | _ => exact .refl _

theorem kept_busWrite {addr : Addr} (d : Word) (h : addr = 0x14 → s.status.busy = true) :
    s.esticky.Kept (busWrite addr d s).esticky := by
  obtain hw | ⟨-, hw⟩ | ⟨hidle, ⟨r, ht, hw⟩ | ⟨sp, i, -, -, hw⟩⟩ := busWrite_cases addr d s <;> rw [hw]
  · exact kept_raiseAddress s
  · exact kept_raiseBusy s
  · have hr : r ≠ .esticky := by
      rintro rfl
      have haddr : addr = 0x14 := addr_eq_of_targetOf_register (n := 5) rfl ht
      simp [h haddr] at hidle
    rw [writeRegister_esticky s d hr]
    exact .refl _
  · exact kept_writeEntry s d sp i

variable {s} {t : State}

theorem kept_exec {i : Instr} (h : exec i s = .next t) : s.esticky.Kept t.esticky := by
  rw [exec_eq_runCommand] at h
  obtain ⟨-, u, hbody, rfl⟩ | ⟨c, -, rfl⟩ | ⟨-, rfl⟩ := runCommand_next h
  · have hu : u.esticky = s.esticky := by rw [bodyOf_frame hbody]
    exact hu ▸ kept_complete u _ _
  · exact kept_complete s _ _
  · exact kept_complete s _ _

theorem kept_coreTurn (h : coreTurn s = .next t) : s.esticky.Kept t.esticky := by
  obtain ⟨-, rfl⟩ | ⟨-, i, -, hexec⟩ | ⟨-, -, -, rfl⟩ := coreTurn_next h
  · exact .refl _
  · exact kept_exec hexec
  · exact kept_complete s _ _

end Operations

/-- Settles O11: of the turns a step can serve, only a reset and the idle write to ESTICKY clear a sticky bit. -/
theorem stickyClearedOnlyByHost : Obligations.StickyClearedOnlyByHost := by
  refine ⟨fun s t hstep hreset hwrite => ?kept, fun s d hidle => ?cleared⟩
  case kept =>
    change s.esticky.Kept t.esticky
    obtain ⟨rest, -, hcore⟩ | ⟨addr, rest, -, rfl⟩ | ⟨addr, d, rest, hturns, rfl⟩ | ⟨rest, hturns, -⟩ :=
      step_next hstep
    · exact kept_coreTurn (s := { s with turns := rest }) hcore
    · exact kept_busRead { s with turns := rest } addr
    · exact kept_busWrite { s with turns := rest } d fun haddr => hwrite d rest (haddr ▸ hturns)
    · exact absurd hturns (hreset rest)
  case cleared => exact busWrite_register_of_idle (r := .esticky) d (by decide) hidle

end Sys2Proof.Machine
end

section
/-! PROOFS. What a command has established when its checks pass (spec/44_control.md R191 to R193), and the frames of a
legal buffer (spec/41_spectral_transform.md R131). -/

namespace Sys2Proof.Machine

open Sys2Proof.Safety

theorem windowIllegal_eq_false_iff {s : State} : windowIllegal s = false ↔ WindowLegal s := by
  have hiff : ¬(s.wlog2.toNat < 3 ∨ 10 < s.wlog2.toNat) ↔ WindowLegal s := by omega
  exact decide_eq_false_iff_not.trans hiff

section Checks

variable {i : Instr} {s : State}

theorem capCondition_of_judge (h : judge i s = .nothing) : capCondition i s = false :=
  congrArg Causes.cap (judge_nothing_iff.mp h).1

theorem samples_le_of_judge_mod {n : Nat} (h : judge (.mod n) s = .nothing) : n * s.spb.toNat ≤ 65536 := by
  have hcap : ¬(65536 < n ∨ 65536 < n * s.spb.toNat) := of_decide_eq_false (capCondition_of_judge h)
  omega

/-- The commands that check HOP also check that the buffer fits SMPMEM (R193). -/
theorem slen_le_of_judge (h : judge i s = .nothing) (hset : (relevantSet i).hop0 = true) : s.slen.toNat ≤ 65536 := by
  have hcap := capCondition_of_judge h
  cases i with
  | nop | mod n | xtrc => cases hset
  | xfrm j | anlz | demod => exact Nat.le_of_not_lt (of_decide_eq_false hcap)
  | check | dec =>
    have hboth : ¬(65536 < s.slen.toNat ∨ 65536 < s.nfrm.toNat) := of_decide_eq_false hcap
    omega

theorem windowLegal_of_judge (h : judge i s = .nothing) (hset : (relevantSet i).wlog = true) : WindowLegal s := by
  have hcause : ((cfgCauses s).wlog && (relevantSet i).wlog) = false :=
    congrArg Causes.wlog (judge_nothing_iff.mp h).1
  rw [hset, Bool.and_true] at hcause
  exact windowIllegal_eq_false_iff.mp hcause

theorem spb_ne_zero_of_judge (h : judge i s = .nothing) (hset : (relevantSet i).spb0 = true) : s.spb.toNat ≠ 0 := by
  have hcause : ((cfgCauses s).spb0 && (relevantSet i).spb0) = false :=
    congrArg Causes.spb0 (judge_nothing_iff.mp h).1
  simpa only [hset, Bool.and_true, cfgCauses, decide_eq_false_iff_not] using hcause

theorem bandLegal_of_judge (h : judge i s = .nothing) (hset : (relevantSet i).band = true)
    (hwindow : WindowLegal s) : BandLegal s := by
  have hcause : ((cfgCauses s).band && (relevantSet i).band) = false :=
    congrArg Causes.band (judge_nothing_iff.mp h).1
  simpa [hset, cfgCauses, windowIllegal_eq_false_iff.mpr hwindow] using hcause

end Checks

/-! ### Sizes in a legal configuration -/

theorem windowSize_pos (s : State) : 0 < windowSize s := Nat.two_pow_pos _

theorem windowSize_le {s : State} (h : WindowLegal s) : windowSize s ≤ 1024 :=
  Nat.pow_le_pow_right (n := 2) (by decide) h.2

/-- A frame that exists lies wholly inside the buffer (R131). -/
theorem frameOffset_add_le {s : State} {j : Nat} (hj : j < frameCount s) :
    frameOffset s j + windowSize s ≤ s.slen.toNat := by
  unfold frameCount at hj
  split at hj
  case isTrue => omega
  case isFalse hlong =>
    have hmul : j * s.hop.toNat ≤ s.slen.toNat - windowSize s :=
      calc j * s.hop.toNat
          ≤ (s.slen.toNat - windowSize s) / s.hop.toNat * s.hop.toNat := Nat.mul_le_mul_right _ (by omega)
        _ ≤ s.slen.toNat - windowSize s := Nat.div_mul_le_self _ _
    rw [frameOffset]
    omega

theorem frameCount_le (s : State) : frameCount s ≤ s.slen.toNat := by
  have hpos := windowSize_pos s
  have hdiv := Nat.div_le_self (s.slen.toNat - windowSize s) s.hop.toNat
  unfold frameCount
  split <;> omega

theorem bitCount_le (s : State) (h : s.spb.toNat ≠ 0) : bitCount s ≤ s.slen.toNat := by
  have hpos : 0 < s.spb.toNat := Nat.pos_of_ne_zero h
  rw [bitCount, ceilDiv, ← Nat.lt_add_one_iff, Nat.div_lt_iff_lt_mul hpos]
  have hmul : s.slen.toNat + s.spb.toNat ≤ (s.slen.toNat + 1) * s.spb.toNat := by
    rw [Nat.add_mul, Nat.one_mul]
    exact Nat.add_le_add_right (Nat.le_mul_of_pos_right _ hpos) _
  omega

/-- The band ends below the Nyquist bin (R151). -/
theorem binHigh_lt (s : State) (h : WindowLegal s) : binHigh s < windowSize s / 2 := by
  have htwo : 2 ≤ windowSize s := Nat.le_self_pow (n := windowLog s) (by have := h.1; simp only [windowLog]; omega) 2
  rw [binHigh]
  omega

/-- The peak XTRC picks lies in the band (R151, R152). -/
theorem peakBin_mem_band {s : State} (h : BandLegal s) {mags : List Word}
    (hmags : mags.length = binHigh s + 1 - binLow s) :
    binLow s ≤ peakBin (binLow s) (mags.map BitVec.toNat) ∧
      peakBin (binLow s) (mags.map BitVec.toNat) ≤ binHigh s := by
  have hrange := peakBin_range (binLow s) (mags.map BitVec.toNat)
  rw [List.length_map, hmags] at hrange
  omega

end Sys2Proof.Machine
end

section
/-! PROOFS. The invariant of the machine, in two parts: what a body must keep, and what completion writes. -/

namespace Sys2Proof.Machine

open Sys2Proof.Safety

/-- The part of the invariant that speaks of memories and result registers, which bodies write. -/
structure ResultsWf (s : State) : Prop where
  memories : MemoriesWf s
  counts : s.errcnt.toNat ≤ s.nbits.toNat ∧ s.nbits.toNat ≤ 65536
  firstError : (s.errpos = 0xFFFFFFFF ↔ s.errcnt = 0) ∧ (s.errcnt ≠ 0 → s.errpos.toNat < s.nbits.toNat)
  codes : ∀ e ∈ s.rxmem, e.2 ≠ 3
  peak : s.peak.toNat < 512
  offset : s.toff.toNat < 65536

/-- The part of the invariant that speaks of STATUS and CFGCAUSE, which acceptance and completion write. -/
structure FlagsWf (s : State) : Prop where
  pending : s.status.busy = true → s.status.done = false ∧ s.status.cfgErr = false ∧ s.status.incomplete = false ∧
    s.status.cmdErr = false ∧ s.cfgcause = Causes.none ∧ s.status.lastOp = s.cmdlatch.extractLsb' 24 8
  oneError : (s.status.cfgErr = false ∨ s.status.cmdErr = false) ∧
    (s.status.incomplete = true → s.status.cfgErr = false ∧ s.status.cmdErr = false)
  causes : s.status.cfgErr = true ↔ s.cfgcause ≠ Causes.none
  incomplete : s.status.incomplete = true → s.errcnt ≠ 0 ∧ (s.status.lastOp = 0x06 ∨ s.status.lastOp = 0x07)

theorem inv_iff {s : State} : Inv s ↔ ResultsWf s ∧ FlagsWf s where
  mp h := ⟨⟨h.memories, h.counts, h.firstError, h.codes, h.peak, h.offset⟩,
    ⟨h.pending, h.oneError, h.causes, h.incomplete⟩⟩
  mpr := fun ⟨hr, hf⟩ => { hr, hf with }

/-- The invariant speaks of no parameter, no sticky bit and no field of the model's own. -/
theorem inv_of_unseen {s t : State} (h : Inv s)
    (heq : t = { s with
      esticky := t.esticky, ctrl := t.ctrl, fcenter := t.fcenter, fdev := t.fdev, fmargin := t.fmargin
      spb := t.spb, wlog2 := t.wlog2, hop := t.hop, mthresh := t.mthresh, slen := t.slen, nfrm := t.nfrm
      turns := t.turns, rdata := t.rdata, draws := t.draws }) : Inv t := by
  rw [heq]
  exact { h with }

theorem inv_reset : Inv State.reset := by constructor <;> decide

theorem inv_hardReset (s : State) : Inv (hardReset s) := inv_of_unseen inv_reset rfl

/-! ### The flags -/

theorem flagsWf_accept (c : Word) (s : State) : FlagsWf (s.accept c) where
  pending _ := ⟨rfl, rfl, rfl, rfl, rfl, rfl⟩
  oneError := ⟨.inl rfl, fun h => nomatch h⟩
  causes := by simp
  incomplete h := nomatch h

theorem flagsWf_acknowledgeDone {s : State} (h : FlagsWf s) (hidle : s.status.busy = false) (d : Word) :
    FlagsWf (s.acknowledgeDone d) :=
  { h with pending := fun hbusy => absurd hbusy (by simp [State.acknowledgeDone, hidle]) }

theorem flagsWf_complete_nothing (s : State) {b : Bool}
    (h : b = true → s.errcnt ≠ 0 ∧ (s.status.lastOp = 0x06 ∨ s.status.lastOp = 0x07)) :
    FlagsWf (s.complete .nothing b) where
  pending hbusy := nomatch hbusy
  oneError := ⟨.inl rfl, fun _ => ⟨rfl, rfl⟩⟩
  causes := by simp [Raised.isConfiguration, Raised.causes]
  incomplete := h

theorem flagsWf_complete_configuration (s : State) {c : Causes} (h : c ≠ Causes.none) :
    FlagsWf (s.complete (.configuration c) false) where
  pending hbusy := nomatch hbusy
  oneError := ⟨.inr rfl, fun hi => nomatch hi⟩
  causes := by simpa [Raised.isConfiguration, Raised.causes] using h
  incomplete hi := nomatch hi

theorem flagsWf_complete_command (s : State) : FlagsWf (s.complete .command false) where
  pending hbusy := nomatch hbusy
  oneError := ⟨.inl rfl, fun hi => nomatch hi⟩
  causes := by simp [Raised.isConfiguration, Raised.causes]
  incomplete hi := nomatch hi

theorem resultsWf_complete {s : State} (h : ResultsWf s) (r : Raised) (b : Bool) : ResultsWf (s.complete r b) :=
  { h with }

end Sys2Proof.Machine
end

section
/-! PROOFS. Every body keeps the memories and result registers in range (spec/10_state.md R38, R40 to R44). -/

namespace Sys2Proof.Machine

open Sys2Proof.Safety

theorem Memory.mem_storeFromZero {w : Nat} {m : Memory w} {vs : List (BitVec w)} {e : Nat × BitVec w}
    (h : e ∈ Memory.storeFromZero m vs) : e.2 ∈ vs ∨ e ∈ m :=
  (List.mem_append.mp h).imp (fun hn => (mem_numbered hn).2.2) List.mem_of_mem_filter

/-! ### The decoder's codes -/

/-- The classifier never gives ERR = 1 with BIT = 1 (R175). -/
theorem classify_ne_three (fcenter : Nat) (frames : List Word) : classify fcenter frames ≠ 3 := by
  simp only [classify]
  split
  · decide
  · split <;> decide

theorem decodePositions_ne_three {s : State} {bs : List Nat} {codes : List (BitVec 2)}
    (h : decodePositions s bs = .ok codes) {v : BitVec 2} (hv : v ∈ codes) : v ≠ 3 := by
  obtain ⟨n, hn, rfl⟩ := List.mem_iff_getElem.mp hv
  have hall := decodePositions_ok_iff.mp h
  obtain ⟨frames, -, hcode⟩ := decodePosition_ok_iff.mp (hall.get (hall.length_eq ▸ hn) hn)
  exact fun heq => classify_ne_three _ frames (hcode.symm.trans heq)

/-- ERRPOS is the reset word where no position is incomplete and else a position listed (R38). -/
theorem firstIncomplete_cases {b : Nat} {codes : List (BitVec 2)} (hb : b + codes.length ≤ 65536) :
    (incompleteCount codes = 0 ∧ firstIncomplete b codes = 0xFFFFFFFF) ∨
    (incompleteCount codes ≠ 0 ∧ (firstIncomplete b codes).toNat < b + codes.length) := by
  induction codes generalizing b with
  | nil => exact .inl ⟨rfl, rfl⟩
  | cons v vs ih =>
    rw [List.length_cons] at hb ⊢
    rw [incompleteCount, firstIncomplete]
    split
    case isTrue =>
      refine .inr ⟨by omega, ?_⟩
      rw [BitVec.toNat_ofNat]
      omega
    case isFalse =>
      obtain h | ⟨hcount, hpos⟩ := ih (b := b + 1) (by omega)
      · exact .inl h
      · exact .inr ⟨hcount, by omega⟩

theorem resultsWf_decBody {s t : State} (h : ResultsWf s) (hspb : s.spb.toNat ≠ 0) (hslen : s.slen.toNat ≤ 65536)
    (hbody : decBody s = .ok t) : ResultsWf t := by
  obtain ⟨codes, hcodes, rfl⟩ := decBody_ok hbody
  have hlen : codes.length = bitCount s := by simpa using decodePositions_length hcodes
  have hbits : bitCount s ≤ 65536 := (bitCount_le s hspb).trans hslen
  have hcount : incompleteCount codes ≤ bitCount s := hlen ▸ incompleteCount_le codes
  have hzero : BitVec.ofNat 32 (incompleteCount codes) = 0 ↔ incompleteCount codes = 0 := by
    rw [← BitVec.toNat_inj, BitVec.toNat_ofNat, Nat.mod_eq_of_lt (by omega)]
    rfl
  obtain ⟨hsmp, htx, hrx, hfrm, hspec⟩ := h.memories
  refine { h with memories := ⟨hsmp, htx, ?rx, hfrm, hspec⟩, counts := ?counts, firstError := ?first, codes := ?codes }
  case rx => exact Memory.wf_storeFromZero hrx (hlen ▸ hbits)
  case counts =>
    simp only [BitVec.toNat_ofNat]
    omega
  case first =>
    simp only [ne_eq, hzero, BitVec.toNat_ofNat]
    obtain ⟨hnone, hpos⟩ | ⟨hsome, hpos⟩ := firstIncomplete_cases (b := 0) (codes := codes) (by omega)
    · exact ⟨iff_of_true hpos hnone, fun hne => absurd hnone hne⟩
    · refine ⟨iff_of_false (fun heq => ?_) hsome, fun _ => by omega⟩
      have hmax : (firstIncomplete 0 codes).toNat = 4294967295 := congrArg BitVec.toNat heq
      omega
  case codes =>
    exact fun e he => (Memory.mem_storeFromZero he).elim (decodePositions_ne_three hcodes) (h.codes e)

/-! ### The other bodies -/

theorem resultsWf_modBody {n : Nat} {s t : State} (h : ResultsWf s) (hcap : n * s.spb.toNat ≤ 65536)
    (hbody : modBody n s = .ok t) : ResultsWf t := by
  obtain ⟨bits, hbits, rfl⟩ := modBody_ok hbody
  obtain ⟨hsmp, hrest⟩ := h.memories
  refine { h with memories := ⟨Memory.wf_storeFromZero hsmp ?_, hrest⟩ }
  rw [modulate_length, List.length_map, (fetchRun_ok hbits).1]
  exact hcap

theorem resultsWf_xfrmBody {j : Nat} {s t : State} (h : ResultsWf s) (hwindow : WindowLegal s)
    (hoffset : frameOffset s j < 65536) (hbody : xfrmBody j s = .ok t) : ResultsWf t := by
  obtain ⟨xs, hxs, rfl⟩ := xfrmBody_ok hbody
  obtain ⟨hsmp, htx, hrx, hfrm, hspec⟩ := h.memories
  refine { h with memories := ⟨hsmp, htx, hrx, hfrm, Memory.wf_storeFromZero hspec ?bins⟩, offset := ?offset }
  case bins =>
    have hsize := windowSize_le hwindow
    have hbins := spectrum_length (m := windowLog s) (xs := xs.map BitVec.toInt) (Nat.le_trans (by decide) hwindow.1)
      (by rw [List.length_map, (fetchRun_ok hxs).1, windowSize])
    rw [List.length_map, hbins, Config.specDepth]
    rw [windowSize] at hsize
    omega
  case offset =>
    simp only [BitVec.toNat_ofNat]
    omega

theorem resultsWf_xtrcBody {s t : State} (h : ResultsWf s) (hwindow : WindowLegal s) (hband : BandLegal s)
    (hbody : xtrcBody s = .ok t) : ResultsWf t := by
  obtain ⟨mags, delta, hmags, -, rfl⟩ := xtrcBody_ok hbody
  refine { h with peak := ?_ }
  have hpeak := (peakBin_mem_band hband (fetchRun_ok hmags).1).2
  have hhigh := binHigh_lt s hwindow
  have hsize := windowSize_le hwindow
  simp only [BitVec.toNat_ofNat]
  omega

/-- The configuration the passes of ANLZ's loop run in; no pass changes it. -/
def AnalysisLegal (s : State) : Prop := WindowLegal s ∧ BandLegal s ∧ s.slen.toNat ≤ 65536

theorem frameOffset_lt {s : State} {j : Nat} (hslen : s.slen.toNat ≤ 65536) (hj : j < frameCount s) :
    frameOffset s j < 65536 := by
  have hinside := frameOffset_add_le hj
  have hpos := windowSize_pos s
  omega

theorem resultsWf_analyseFrame {j : Nat} {s t : State} (h : ResultsWf s) (hlegal : AnalysisLegal s)
    (hj : j < frameCount s) (hbody : analyseFrame j s = .ok t) : ResultsWf t := by
  obtain ⟨hwindow, hband, hslen⟩ := hlegal
  obtain ⟨u, v, hxfrm, hxtrc, rfl⟩ := analyseFrame_ok hbody
  have hu : ResultsWf u := resultsWf_xfrmBody h hwindow (frameOffset_lt hslen hj) hxfrm
  have hv : ResultsWf v := by
    obtain ⟨xs, -, rfl⟩ := xfrmBody_ok hxfrm
    exact resultsWf_xtrcBody hu hwindow hband hxtrc
  obtain ⟨hsmp, htx, hrx, hfrm, hspec⟩ := hv.memories
  have hdepth : j < Config.frmDepth := hj.trans_le ((frameCount_le s).trans hslen)
  exact { hv with memories := ⟨hsmp, htx, hrx, Memory.wf_write hfrm hdepth _, hspec⟩ }

theorem resultsWf_anlzBody {s t : State} (h : ResultsWf s) (hlegal : AnalysisLegal s) (hbody : anlzBody s = .ok t) :
    ResultsWf t := by
  obtain ⟨u, hloop, rfl⟩ := anlzBody_ok hbody
  have hu : ResultsWf u ∧ AnalysisLegal u ∧ frameCount u = frameCount s := by
    refine analyseFrames_induction (P := fun a => ResultsWf a ∧ AnalysisLegal a ∧ frameCount a = frameCount s)
      hloop ⟨h, hlegal, rfl⟩ ?_
    rintro j a b - hj ⟨ha, hlegala, hcount⟩ hframe
    refine ⟨resultsWf_analyseFrame ha hlegala (by omega) hframe, ?_⟩
    rw [analyseFrame_frame hframe]
    exact ⟨hlegala, hcount⟩
  exact { hu.1 with }

theorem analysisLegal_of_judge {i : Instr} {s : State} (h : judge i s = .nothing) (hset : relevantSet i = allNine) :
    AnalysisLegal s :=
  have hwindow : WindowLegal s := windowLegal_of_judge h (by rw [hset]; rfl)
  ⟨hwindow, bandLegal_of_judge h (by rw [hset]; rfl) hwindow, slen_le_of_judge h (by rw [hset]; rfl)⟩

/-- A body that runs, its checks passed, keeps every result in range. -/
theorem resultsWf_bodyOf {i : Instr} {s t : State} (h : ResultsWf s) (hjudge : judge i s = .nothing)
    (hbody : bodyOf i s = .ok t) : ResultsWf t := by
  cases i with
  | nop => cases hbody; exact h
  | check => cases hbody; exact h
  | mod n =>
    exact resultsWf_modBody h (samples_le_of_judge_mod hjudge) hbody
  | xfrm j =>
    have hexists : j < frameCount s := by simpa [operandIllegal] using (judge_nothing_iff.mp hjudge).2
    have hoffset := frameOffset_lt (slen_le_of_judge hjudge rfl) hexists
    exact resultsWf_xfrmBody h (windowLegal_of_judge hjudge rfl) hoffset hbody
  | xtrc =>
    have hwindow := windowLegal_of_judge hjudge rfl
    exact resultsWf_xtrcBody h hwindow (bandLegal_of_judge hjudge rfl hwindow) hbody
  | anlz =>
    exact resultsWf_anlzBody h (analysisLegal_of_judge hjudge rfl) hbody
  | dec =>
    exact resultsWf_decBody h (spb_ne_zero_of_judge hjudge rfl) (slen_le_of_judge hjudge rfl) hbody
  | demod =>
    obtain ⟨u, hanlz, hdec⟩ := demodBody_ok hbody
    have hu := resultsWf_anlzBody h (analysisLegal_of_judge hjudge rfl) hanlz
    rw [anlzBody_frame hanlz] at hu hdec
    exact resultsWf_decBody hu (spb_ne_zero_of_judge hjudge rfl) (slen_le_of_judge hjudge rfl) hdec

end Sys2Proof.Machine
end

section
/-! PROOFS. Every step keeps the invariant. -/

namespace Sys2Proof.Machine

open Sys2Proof.Safety

theorem eq_of_bare_eq_cmd {k i : Instr} {c : Word} (h : bare k c = .cmd i) : k = i := by
  unfold bare at h
  split at h
  · exact Decoded.cmd.inj h
  · cases h

/-- The opcode field of a word that decodes to a command is the command's (R91). -/
theorem opcOf_of_decode {c : Word} {i : Instr} (h : decode c = .cmd i) : opcOf c = opcode i := by
  apply BitVec.eq_of_toNat_eq
  unfold decode at h
  split at h <;> rename_i hopc
  · obtain rfl := eq_of_bare_eq_cmd h; exact hopc
  · obtain rfl := eq_of_bare_eq_cmd h; exact hopc
  · cases h; exact hopc
  · cases h; exact hopc
  · obtain rfl := eq_of_bare_eq_cmd h; exact hopc
  · obtain rfl := eq_of_bare_eq_cmd h; exact hopc
  · obtain rfl := eq_of_bare_eq_cmd h; exact hopc
  · obtain rfl := eq_of_bare_eq_cmd h; exact hopc
  · cases h

theorem inv_exec {i : Instr} {s t : State} (h : Inv s) (hbusy : s.status.busy = true)
    (hcmd : decode s.cmdlatch = .cmd i) (hexec : exec i s = .next t) : Inv t := by
  obtain ⟨hresults, hflags⟩ := inv_iff.mp h
  rw [exec_eq_runCommand] at hexec
  obtain ⟨hjudge, u, hbody, rfl⟩ | ⟨c, hjudge, rfl⟩ | ⟨-, rfl⟩ := runCommand_next hexec
  · refine inv_iff.mpr ⟨resultsWf_complete (resultsWf_bodyOf hresults hjudge hbody) _ _,
      flagsWf_complete_nothing u fun hincomplete => ?_⟩
    obtain ⟨hdecodes, herrcnt⟩ : decodesBits i = true ∧ 0 < u.errcnt.toNat := by simpa using hincomplete
    have hlast : u.status.lastOp = opcode i := by
      obtain ⟨-, -, -, -, -, hlatch⟩ := hflags.pending hbusy
      rw [bodyOf_frame hbody]
      exact hlatch.trans (opcOf_of_decode hcmd)
    refine ⟨fun hzero => by simp [hzero] at herrcnt, ?_⟩
    rw [hlast]
    cases i with
    | dec => exact .inl rfl
    | demod => exact .inr rfl
    | _ => cases hdecodes
  · exact inv_iff.mpr ⟨resultsWf_complete hresults _ _,
      flagsWf_complete_configuration s (judge_configuration hjudge).2⟩
  · exact inv_iff.mpr ⟨resultsWf_complete hresults _ _, flagsWf_complete_command s⟩

theorem inv_coreTurn {s t : State} (h : Inv s) (hcore : coreTurn s = .next t) : Inv t := by
  obtain ⟨-, rfl⟩ | ⟨hbusy, i, hcmd, hexec⟩ | ⟨-, -, -, rfl⟩ := coreTurn_next hcore
  · exact h
  · exact inv_exec h hbusy hcmd hexec
  · exact inv_iff.mpr ⟨resultsWf_complete (inv_iff.mp h).1 _ _, flagsWf_complete_command s⟩

theorem inv_busRead {s : State} (h : Inv s) (addr : Addr) : Inv (busRead addr s) :=
  inv_of_unseen h (by rw [busRead_frame])

theorem inv_writeRegister {s : State} (h : Inv s) (hidle : s.status.busy = false) (d : Word) (r : Reg) :
    Inv (writeRegister d s r) := by
  obtain ⟨hresults, hflags⟩ := inv_iff.mp h
  cases r with
  | cmd => exact inv_iff.mpr ⟨{ hresults with }, flagsWf_accept d s⟩
  | status => exact inv_iff.mpr ⟨{ hresults with }, flagsWf_acknowledgeDone hflags hidle d⟩
  | _ => exact inv_of_unseen h rfl

theorem inv_writeEntry {s : State} (h : Inv s) (d : Word) {sp : Space} {i : Nat} (hi : i < depthOf sp) :
    Inv (writeEntry d s sp i) := by
  obtain ⟨hsmp, htx, hrx, hfrm, hspec⟩ := h.memories
  cases sp with
  | specmem => exact { h with memories := ⟨hsmp, htx, hrx, hfrm, Memory.wf_write hspec hi d⟩ }
  | frmmem => exact { h with memories := ⟨hsmp, htx, hrx, Memory.wf_write hfrm hi d, hspec⟩ }
  | smpmem =>
    rw [writeEntry]
    split
    · exact { h with memories := ⟨Memory.wf_write hsmp hi _, htx, hrx, hfrm, hspec⟩ }
    · exact inv_of_unseen h rfl
  | txmem =>
    rw [writeEntry]
    split
    · exact { h with memories := ⟨hsmp, Memory.wf_write htx hi _, hrx, hfrm, hspec⟩ }
    · exact inv_of_unseen h rfl
  | rxmem => exact h

theorem inv_busWrite {s : State} (h : Inv s) (addr : Addr) (d : Word) : Inv (busWrite addr d s) := by
  obtain hw | ⟨-, hw⟩ | ⟨hidle, ⟨r, -, hw⟩ | ⟨sp, i, -, hi, hw⟩⟩ := busWrite_cases addr d s <;> rw [hw]
  · exact inv_of_unseen h rfl
  · exact inv_of_unseen h rfl
  · exact inv_writeRegister h hidle d r
  · exact inv_writeEntry h d hi

/-- Settles O58: CORE's turn, a read, a write and a reset each keep the invariant. -/
theorem stepKeepsInv : Obligations.StepKeepsInv := by
  intro s t h hstep
  have hdrop : ∀ rest, Inv { s with turns := rest } := fun _ => inv_of_unseen h rfl
  obtain ⟨rest, -, hcore⟩ | ⟨addr, rest, -, rfl⟩ | ⟨addr, d, rest, -, rfl⟩ | ⟨rest, -, rfl⟩ := step_next hstep
  · exact inv_coreTurn (hdrop rest) hcore
  · exact inv_busRead (hdrop rest) addr
  · exact inv_busWrite (hdrop rest) addr d
  · exact inv_hardReset _

end Sys2Proof.Machine
end

section
/-! PROOFS. What an idle host reads: the registers with fields bit by bit and the entries of the memories
(spec/10_state.md R26 to R29, R32, R37; spec/20_memory.md R61, R62). -/

namespace Sys2Proof.Machine

/-! ### Flags in a word -/

/-- Bit `n` is the `n`-th flag (R6). -/
theorem testBit_flagBits (bs : List Bool) (n : Nat) : (flagBits bs).testBit n = bs.getD n false := by
  induction bs generalizing n with
  | nil => simp [flagBits]
  | cons b bs ih =>
    have hb : b.toNat < 2 ^ 1 := b.toNat_lt
    rw [flagBits, Nat.add_comm, ← Nat.pow_one 2, Nat.testBit_two_pow_mul_add _ hb]
    cases n with
    | zero => cases b <;> rfl
    | succ n => exact ih n

theorem flagBits_lt (bs : List Bool) : flagBits bs < 2 ^ bs.length := by
  induction bs with
  | nil => decide
  | cons b bs ih =>
    have hb := b.toNat_lt
    rw [flagBits, List.length_cons, Nat.pow_succ]
    omega

theorem getLsbD_flagWord (bs : List Bool) {n : Nat} (hn : n < 32) :
    (BitVec.ofNat 32 (flagBits bs)).getLsbD n = bs.getD n false := by
  rw [BitVec.getLsbD_ofNat, testBit_flagBits, decide_eq_true hn, Bool.true_and]

theorem extractLsb'_eq_zero_of_lt {v : Word} {start : Nat} (h : v.toNat < 2 ^ start) (len : Nat) :
    v.extractLsb' start len = 0 := by
  apply BitVec.eq_of_toNat_eq
  rw [BitVec.extractLsb'_toNat, Nat.shiftRight_eq_div_pow, Nat.div_eq_of_lt h]
  rfl

/-- The bits above the flags read 0. -/
theorem reserved_flagWord (bs : List Bool) (len : Nat) :
    (BitVec.ofNat 32 (flagBits bs)).extractLsb' bs.length len = 0 :=
  extractLsb'_eq_zero_of_lt ((Nat.mod_le _ _).trans_lt (flagBits_lt bs)) len

/-! ### The registers with fields -/

/-- STATUS is its five flags under the opcode byte. -/
theorem Status.toNat_word (st : Status) : st.word.toNat =
    2 ^ 8 * st.lastOp.toNat + flagBits [st.busy, st.done, st.cfgErr, st.incomplete, st.cmdErr] := by
  have hflags : _ < 2 ^ 5 := flagBits_lt [st.busy, st.done, st.cfgErr, st.incomplete, st.cmdErr]
  have hop := st.lastOp.isLt
  rw [Status.word, BitVec.toNat_ofNat]
  omega

theorem Status.getLsbD_word (st : Status) {n : Nat} (hn : n < 8) :
    st.word.getLsbD n = [st.busy, st.done, st.cfgErr, st.incomplete, st.cmdErr].getD n false := by
  have hflags : _ < 2 ^ 8 :=
    (flagBits_lt [st.busy, st.done, st.cfgErr, st.incomplete, st.cmdErr]).trans (by decide : 2 ^ 5 < 2 ^ 8)
  rw [BitVec.getLsbD, Status.toNat_word, Nat.testBit_two_pow_mul_add _ hflags, if_pos hn, testBit_flagBits]

theorem Status.word_fields (st : Status) :
    st.word.getLsbD 0 = st.busy ∧ st.word.getLsbD 1 = st.done ∧ st.word.getLsbD 2 = st.cfgErr ∧
    st.word.getLsbD 3 = st.incomplete ∧ st.word.getLsbD 4 = st.cmdErr ∧ st.word.extractLsb' 5 3 = 0 ∧
    st.word.extractLsb' 8 8 = st.lastOp ∧ st.word.extractLsb' 16 16 = 0 := by
  have hflags : _ < 2 ^ 5 := flagBits_lt [st.busy, st.done, st.cfgErr, st.incomplete, st.cmdErr]
  have hop := st.lastOp.isLt
  have hword := st.toNat_word
  refine ⟨st.getLsbD_word (by decide), st.getLsbD_word (by decide), st.getLsbD_word (by decide),
    st.getLsbD_word (by decide), st.getLsbD_word (by decide), ?low, ?opcode, ?high⟩
  case low =>
    apply BitVec.eq_of_toNat_eq
    rw [BitVec.extractLsb'_toNat, Nat.shiftRight_eq_div_pow]
    change _ = 0
    omega
  case opcode =>
    apply BitVec.eq_of_toNat_eq
    rw [BitVec.extractLsb'_toNat, Nat.shiftRight_eq_div_pow]
    omega
  case high => exact extractLsb'_eq_zero_of_lt (by omega) 16

theorem Causes.word_fields (c : Causes) :
    c.word.getLsbD 0 = c.fc0 ∧ c.word.getLsbD 1 = c.fd0 ∧ c.word.getLsbD 2 = c.fdge ∧ c.word.getLsbD 3 = c.nyq ∧
    c.word.getLsbD 4 = c.spb0 ∧ c.word.getLsbD 5 = c.wlog ∧ c.word.getLsbD 6 = c.hop0 ∧
    c.word.getLsbD 7 = c.winspb ∧ c.word.getLsbD 8 = c.band ∧ c.word.getLsbD 9 = c.cap ∧
    c.word.extractLsb' 10 22 = 0 := by
  have hbit : ∀ n, n < 32 → c.word.getLsbD n = [c.fc0, c.fd0, c.fdge, c.nyq, c.spb0, c.wlog, c.hop0, c.winspb, c.band,
    c.cap].getD n false := fun _ hn => getLsbD_flagWord _ hn
  exact ⟨hbit 0 (by decide), hbit 1 (by decide), hbit 2 (by decide), hbit 3 (by decide), hbit 4 (by decide),
    hbit 5 (by decide), hbit 6 (by decide), hbit 7 (by decide), hbit 8 (by decide), hbit 9 (by decide),
    reserved_flagWord _ 22⟩

theorem Sticky.word_fields (e : Sticky) :
    e.word.getLsbD 0 = e.cfgErr ∧ e.word.getLsbD 1 = e.incomplete ∧ e.word.getLsbD 2 = e.cmdErr ∧
    e.word.getLsbD 3 = e.fmtErr ∧ e.word.getLsbD 4 = e.busyErr ∧ e.word.getLsbD 5 = e.addrErr ∧
    e.word.extractLsb' 6 26 = 0 := by
  have hbit : ∀ n, n < 32 → e.word.getLsbD n =
    [e.cfgErr, e.incomplete, e.cmdErr, e.fmtErr, e.busyErr, e.addrErr].getD n false := fun _ hn => getLsbD_flagWord _ hn
  exact ⟨hbit 0 (by decide), hbit 1 (by decide), hbit 2 (by decide), hbit 3 (by decide), hbit 4 (by decide),
    hbit 5 (by decide), reserved_flagWord _ 26⟩

theorem Ctrl.word_fields (c : Ctrl) :
    c.word.getLsbD 0 = c.interp ∧ c.word.getLsbD 1 = c.ie ∧ c.word.extractLsb' 2 30 = 0 :=
  ⟨getLsbD_flagWord [c.interp, c.ie] (by decide), getLsbD_flagWord [c.interp, c.ie] (by decide),
    reserved_flagWord [c.interp, c.ie] 30⟩

/-- A register that stores its low bits alone reads them and 0 above (R32, R37). -/
theorem setWidth_fields {w : Nat} (v : BitVec w) (hw : w ≤ 32) (len : Nat) :
    (v.setWidth 32).extractLsb' 0 w = v ∧ (v.setWidth 32).extractLsb' w len = 0 := by
  have hfit : v.toNat < 2 ^ 32 := v.isLt.trans_le (Nat.pow_le_pow_right (by decide) hw)
  have hread : (v.setWidth 32).toNat = v.toNat := by rw [BitVec.toNat_setWidth, Nat.mod_eq_of_lt hfit]
  refine ⟨?_, extractLsb'_eq_zero_of_lt (hread ▸ v.isLt) len⟩
  apply BitVec.eq_of_toNat_eq
  rw [BitVec.extractLsb'_toNat, hread, Nat.shiftRight_zero, Nat.mod_eq_of_lt v.isLt]

/-- A frame word is VALID over `F` (R37). -/
theorem toNat_eq_valid_frequency (v : Word) : v.toNat = 2 ^ 31 * (frameValid v).toNat + frameFrequency v := by
  have hlt := v.isLt
  rw [frameValid, BitVec.getLsbD, Nat.toNat_testBit, frameFrequency, BitVec.extractLsb'_toNat, Nat.shiftRight_zero]
  omega

/-! ### The entries of the memories -/

/-- The byte address of entry 0 of each memory (R61). -/
def baseOf : Space → Nat
  | .specmem => 0x001000
  | .smpmem => 0x040000
  | .txmem => 0x080000
  | .rxmem => 0x0C0000
  | .frmmem => 0x100000

theorem targetOf_entry {sp : Space} {i : Nat} (hi : i < depthOf sp) :
    targetOf (BitVec.ofNat 21 (baseOf sp + 4 * i)) = .entry sp i := by
  have hfits : baseOf sp + 4 * depthOf sp ≤ 2 ^ 21 := by cases sp <;> decide
  have hlt : baseOf sp + 4 * i < 2 ^ 21 := by omega
  rw [targetOf, BitVec.toNat_ofNat, Nat.mod_eq_of_lt hlt]
  cases sp with
  | specmem =>
    obtain ⟨hbase, hdepth⟩ : baseOf .specmem = 0x001000 ∧ i < 513 := ⟨rfl, hi⟩
    rw [if_neg (by omega), if_neg (by omega), if_pos (by omega)]
    exact congrArg _ (by omega)
  | smpmem =>
    obtain ⟨hbase, hdepth⟩ : baseOf .smpmem = 0x040000 ∧ i < 65536 := ⟨rfl, hi⟩
    rw [if_neg (by omega), if_neg (by omega), if_neg (by omega), if_neg (by omega), if_pos (by omega)]
    exact congrArg _ (by omega)
  | txmem =>
    obtain ⟨hbase, hdepth⟩ : baseOf .txmem = 0x080000 ∧ i < 65536 := ⟨rfl, hi⟩
    rw [if_neg (by omega), if_neg (by omega), if_neg (by omega), if_neg (by omega), if_neg (by omega),
      if_pos (by omega)]
    exact congrArg _ (by omega)
  | rxmem =>
    obtain ⟨hbase, hdepth⟩ : baseOf .rxmem = 0x0C0000 ∧ i < 65536 := ⟨rfl, hi⟩
    rw [if_neg (by omega), if_neg (by omega), if_neg (by omega), if_neg (by omega), if_neg (by omega),
      if_neg (by omega), if_pos (by omega)]
    exact congrArg _ (by omega)
  | frmmem =>
    obtain ⟨hbase, hdepth⟩ : baseOf .frmmem = 0x100000 ∧ i < 65536 := ⟨rfl, hi⟩
    rw [if_neg (by omega), if_neg (by omega), if_neg (by omega), if_neg (by omega), if_neg (by omega),
      if_neg (by omega), if_neg (by omega), if_pos (by omega)]
    exact congrArg _ (by omega)

/-- An idle host reads an entry, or a free value where nothing has written it (R62 step 6; log entries 3, 4). -/
theorem busRead_entry_of_idle {sp : Space} {i : Nat} {s : State} (hidle : s.status.busy = false)
    (hi : i < depthOf sp) : busRead (BitVec.ofNat 21 (baseOf sp + 4 * i)) s =
      (readEntry s sp i).elim (s.answerFree (entryShape sp)) s.answer := by
  simp only [busRead, targetOf_entry hi, hidle]
  cases readEntry s sp i <;> rfl

theorem entryShape_txmem : entryShape .txmem = fun v => BitVec.ofNat 32 (v.toNat % 2) :=
  funext fun v => by rw [entryShape, ← BitVec.ofNat_toNat, BitVec.toNat_setWidth]

theorem entryShape_rxmem : entryShape .rxmem = fun v => BitVec.ofNat 32 (v.toNat % 4) :=
  funext fun v => by rw [entryShape, ← BitVec.ofNat_toNat, BitVec.toNat_setWidth]

/-- Settles O10: the fields of each register, the table of R22 as an idle host reads it, and the five memories. -/
theorem registerFieldsAsRead : Obligations.RegisterFieldsAsRead := by
  intro s
  refine ⟨s.status.word_fields, s.cfgcause.word_fields, s.esticky.word_fields, s.ctrl.word_fields,
    setWidth_fields s.wlog2 (by decide) 28, setWidth_fields s.peak (by decide) 22,
    ⟨rfl, rfl, toNat_eq_valid_frequency s.freq⟩, fun hidle => ⟨?registers, ?specmem, fun i hi => ⟨?smpmem, ?txmem,
      ?rxmem, ?frmmem⟩⟩⟩
  case registers => exact fun _ hp => busRead_of_mem_registerReads hidle hp
  case specmem =>
    intro k hk
    refine (busRead_entry_of_idle (sp := .specmem) hidle (Nat.lt_succ_of_le hk)).trans ?_
    rw [readEntry]
    cases Memory.read s.specmem k <;> rfl
  case smpmem =>
    refine (busRead_entry_of_idle (sp := .smpmem) hidle hi).trans ?_
    rw [readEntry]
    cases Memory.read s.smpmem i <;> rfl
  case txmem =>
    refine (busRead_entry_of_idle (sp := .txmem) hidle hi).trans ?_
    rw [readEntry]
    cases Memory.read s.txmem i with
    | none => exact congrArg (State.answerFree · s) entryShape_txmem
    | some v => exact congrArg (State.answer · s) (BitVec.ofNat_toNat 32 v).symm
  case rxmem =>
    refine (busRead_entry_of_idle (sp := .rxmem) hidle hi).trans ?_
    rw [readEntry]
    cases Memory.read s.rxmem i with
    | none => exact congrArg (State.answerFree · s) entryShape_rxmem
    | some v => exact congrArg (State.answer · s) (BitVec.ofNat_toNat 32 v).symm
  case frmmem =>
    refine (busRead_entry_of_idle (sp := .frmmem) hidle hi).trans ?_
    rw [readEntry]
    cases Memory.read s.frmmem i <;> rfl

end Sys2Proof.Machine
end

section
/-! PROOFS. The sine ROM (spec/10_state.md R50 to R52): the quarter table row by row, then the four quadrants. -/

namespace Sys2Proof.Machine

/-! ### The quarter table, sixteen entries a row -/

/-- A fact about every entry of the table below the last holds if it holds row by row. -/
theorem forall_quarter_of_rows {P : Nat → Prop} (h : ∀ r, r < 16 → ∀ c, c < 16 → P (16 * r + c)) {i : Nat}
    (hi : i < 256) : P i := by
  have hrow := h (i / 16) (by omega) (i % 16) (by omega)
  rwa [Nat.div_add_mod] at hrow

theorem sum_map_range_mul (f : Nat → Nat) (rows cols : Nat) : ((List.range (cols * rows)).map f).sum =
    ((List.range rows).map fun r => ((List.range cols).map fun c => f (cols * r + c)).sum).sum := by
  induction rows with
  | zero => rfl
  | succ rows ih =>
    rw [Nat.mul_succ, List.range_add, List.range_succ, List.map_append, List.sum_append, ih]
    simp [Function.comp_def]

theorem quarter_lt_succ {i : Nat} (hi : i < 256) : quarter i < quarter (i + 1) :=
  forall_quarter_of_rows (P := fun i => quarter i < quarter (i + 1)) (by decide) hi

theorem sum_quarter_below_last : ∑ i ∈ Finset.range 256, quarter i = 5323783 :=
  (sum_map_range_mul quarter 16 16).trans (by decide)

theorem sum_quarter : ∑ i ∈ Finset.range 257, quarter i = 5356550 := by
  rw [Finset.sum_range_succ, sum_quarter_below_last]
  decide

/-- Read downwards from its last entry the table has the same sum, its first entry being 0. -/
theorem sum_quarter_down : ∑ i ∈ Finset.range 256, quarter (256 - i) = 5356550 :=
  calc ∑ i ∈ Finset.range 256, quarter (256 - i)
      = ∑ i ∈ Finset.range 256, quarter (256 - 1 - i + 1) := Finset.sum_congr rfl fun i hi => by
        rw [show 256 - 1 - i + 1 = 256 - i by have := Finset.mem_range.mp hi; omega]
    _ = ∑ i ∈ Finset.range 256, quarter (i + 1) := Finset.sum_range_reflect (fun i => quarter (i + 1)) 256
    _ = ∑ i ∈ Finset.range 257, quarter i := by
        rw [Finset.sum_range_succ' quarter 256, show quarter 0 = 0 from rfl, Nat.add_zero]
    _ = 5356550 := sum_quarter

/-- The two legs of each angle stay inside the circle of radius 32768 (R52). -/
theorem quarter_sq_add_lt {i : Nat} (hi : i < 256) :
    quarter i * quarter i + quarter (256 - i) * quarter (256 - i) < 32768 ^ 2 :=
  forall_quarter_of_rows (P := fun i => quarter i * quarter i + quarter (256 - i) * quarter (256 - i) < 32768 ^ 2)
    (by decide) hi

/-! ### The quadrants -/

theorem sinRom_eq_quarter {i : Nat} (hi : i ≤ 256) : sinRom i = quarter i := by
  obtain hlt | rfl : i < 256 ∨ i = 256 := by omega
  · rw [sinRom, if_pos (by omega)]
  · decide

theorem sinRom_add_quarter {i : Nat} (hi : i ≤ 256) : sinRom (i + 256) = quarter (256 - i) := by
  obtain hlt | rfl : i < 256 ∨ i = 256 := by omega
  · rw [sinRom, if_neg (by omega), if_pos (by omega), show 512 - (i + 256) = 256 - i by omega]
  · decide

/-- The second half of the wave is the first one's negative (R50). -/
theorem sinRom_add_half {i : Nat} (hi : i < 512) : sinRom (i + 512) = -sinRom i := by
  by_cases hfirst : i < 256
  · rw [sinRom_eq_quarter hfirst.le, sinRom, if_neg (by omega), if_neg (by omega), if_pos (by omega),
      Nat.add_sub_cancel]
  · obtain ⟨k, rfl⟩ : ∃ k, i = k + 256 := ⟨i - 256, by omega⟩
    rw [sinRom_add_quarter (i := k) (by omega), sinRom, if_neg (by omega), if_neg (by omega), if_neg (by omega),
      show 1024 - (k + 256 + 512) = 256 - k by omega]

theorem sinRom_half_sub {i : Nat} (hi : i ≤ 512) : sinRom (512 - i) = sinRom i := by
  by_cases hfirst : i ≤ 256
  · rw [sinRom_eq_quarter hfirst, show 512 - i = 256 - i + 256 by omega, sinRom_add_quarter (by omega),
      Nat.sub_sub_self hfirst]
  · obtain ⟨k, rfl⟩ : ∃ k, i = k + 256 := ⟨i - 256, by omega⟩
    rw [sinRom_add_quarter (by omega), show 512 - (k + 256) = 256 - k by omega, sinRom_eq_quarter (by omega)]

theorem sinRom_full_sub {i : Nat} (hlo : 1 ≤ i) (hhi : i ≤ 1023) : sinRom (1024 - i) = -sinRom i := by
  by_cases hfirst : i ≤ 512
  · rw [show 1024 - i = 512 - i + 512 by omega, sinRom_add_half (by omega), sinRom_half_sub hfirst]
  · obtain ⟨k, rfl⟩ : ∃ k, i = k + 512 := ⟨i - 512, by omega⟩
    rw [sinRom_add_half (by omega), neg_neg, show 1024 - (k + 512) = 512 - k by omega, sinRom_half_sub (by omega)]

theorem cosRom_add_half {i : Nat} (hi : i < 512) : cosRom (i + 512) = -cosRom i := by
  unfold cosRom
  by_cases hfirst : i < 256
  · rw [Nat.mod_eq_of_lt (show i + 512 + 256 < 1024 by omega), Nat.mod_eq_of_lt (show i + 256 < 1024 by omega),
      Nat.add_right_comm, sinRom_add_half (by omega)]
  · obtain ⟨k, rfl⟩ : ∃ k, i = k + 256 := ⟨i - 256, by omega⟩
    rw [show (k + 256 + 512 + 256) % 1024 = k by omega, show (k + 256 + 256) % 1024 = k + 512 by omega,
      sinRom_add_half (by omega), neg_neg]

/-- The point of angle `i` in the first half turn has the quarter table's entries for legs, up to sign. -/
theorem sinRom_cosRom_first_half {i : Nat} (hi : i < 512) : ∃ k, k < 256 ∧
    ((sinRom i = quarter k ∧ cosRom i = quarter (256 - k)) ∨
      (sinRom i = quarter (256 - k) ∧ cosRom i = -quarter k)) := by
  by_cases hfirst : i < 256
  · refine ⟨i, hfirst, .inl ⟨sinRom_eq_quarter hfirst.le, ?_⟩⟩
    rw [cosRom, Nat.mod_eq_of_lt (show i + 256 < 1024 by omega), sinRom_add_quarter hfirst.le]
  · obtain ⟨k, rfl⟩ : ∃ k, i = k + 256 := ⟨i - 256, by omega⟩
    refine ⟨k, by omega, .inr ⟨sinRom_add_quarter (by omega), ?_⟩⟩
    rw [cosRom, show (k + 256 + 256) % 1024 = k + 512 by omega, sinRom_add_half (by omega),
      sinRom_eq_quarter (by omega)]

/-- No point of the ROM reaches the circle of radius 32768 (R52). -/
theorem sinRom_sq_add_cosRom_sq_lt {i : Nat} (hi : i < 1024) :
    sinRom i * sinRom i + cosRom i * cosRom i < 32768 ^ 2 := by
  have hhalf : ∀ j, j < 512 → sinRom j * sinRom j + cosRom j * cosRom j < 32768 ^ 2 := by
    intro j hj
    obtain ⟨k, hk, ⟨hsin, hcos⟩ | ⟨hsin, hcos⟩⟩ := sinRom_cosRom_first_half hj
    · rw [hsin, hcos]
      exact_mod_cast quarter_sq_add_lt hk
    · rw [hsin, hcos, neg_mul_neg, add_comm]
      exact_mod_cast quarter_sq_add_lt hk
  by_cases hfirst : i < 512
  · exact hhalf i hfirst
  · obtain ⟨k, rfl⟩ : ∃ k, i = k + 512 := ⟨i - 512, by omega⟩
    rw [sinRom_add_half (by omega), cosRom_add_half (by omega), neg_mul_neg, neg_mul_neg]
    exact hhalf k (by omega)

theorem abs_sinRom_lt {i : Nat} (hi : i < 1024) : |sinRom i| < 32768 := by
  refine abs_lt_of_sq_lt_sq ?_ (by decide)
  have hcircle := sinRom_sq_add_cosRom_sq_lt hi
  have hcos := mul_self_nonneg (cosRom i)
  rw [sq]
  omega

/-! ### The sums -/

/-- The half wave is the quarter table up and then down. -/
theorem sum_sinRom_half : ((List.range 512).map sinRom).sum = 10680333 := by
  have hup : ∑ i ∈ Finset.range 256, sinRom i = 5323783 := by
    rw [Finset.sum_congr rfl fun i hi => sinRom_eq_quarter (Finset.mem_range.mp hi).le, ← Nat.cast_sum]
    exact congrArg Nat.cast sum_quarter_below_last
  have hdown : ∑ i ∈ Finset.range 256, sinRom (256 + i) = 5356550 := by
    rw [Finset.sum_congr rfl fun i hi => by
      rw [Nat.add_comm, sinRom_add_quarter (Finset.mem_range.mp hi).le], ← Nat.cast_sum]
    exact congrArg Nat.cast sum_quarter_down
  change ∑ i ∈ Finset.range (256 + 256), sinRom i = _
  rw [Finset.sum_range_add, hup, hdown]
  rfl

theorem sum_sinRom : ((List.range 1024).map sinRom).sum = 0 := by
  change ∑ i ∈ Finset.range (512 + 512), sinRom i = 0
  rw [Finset.sum_range_add, ← Finset.sum_add_distrib]
  refine Finset.sum_eq_zero fun i hi => ?_
  rw [Nat.add_comm 512, sinRom_add_half (Finset.mem_range.mp hi), add_neg_cancel]

/-- Settles O34: the table's facts, and the rest by the symmetries. -/
theorem sineRomFacts : Obligations.SineRomFacts := by
  refine ⟨sum_quarter, by decide, by decide, by decide, sum_sinRom_half, sum_sinRom,
    fun i hi => ⟨sinRom_eq_quarter hi.le, sinRom_add_quarter hi.le⟩, fun i => sinRom_add_half,
    by decide, by decide, by decide, by decide, by decide, by decide, by decide, by decide, fun i hi => ?bounds,
    fun i => sinRom_full_sub, fun i => sinRom_half_sub, fun i => quarter_lt_succ⟩
  case bounds =>
    obtain ⟨hlo, hhi⟩ := abs_lt.mp (abs_sinRom_lt hi)
    exact ⟨rfl, by omega, by omega, sinRom_sq_add_cosRom_sq_lt hi⟩

end Sys2Proof.Machine
end

section
/-! PROOFS. When a command's reads succeed and where they stop (spec/10_state.md R45; log entries 4 and 5). -/

namespace Sys2Proof.Machine

open Sys2Proof.Safety

/-! ### Runs of reads -/

theorem range'_eq_append_cons {start len i : Nat} (hi : i < len) : List.range' start len =
    List.range' start i ++ (start + i) :: List.range' (start + i + 1) (len - (i + 1)) := by
  rw [← List.range'_succ, List.range'_append_1]
  congr 1
  omega

section Reads

variable {w : Nat} {m : Memory w}

theorem written_iff {lo len : Nat} :
    written m lo len = true ↔ ∀ k, k < len → (Memory.read m (lo + k)).isSome = true := by
  rw [written, List.all_eq_true]
  constructor
  · exact fun h k hk => h (lo + k) (List.mem_range'_1.mpr (by omega))
  · intro h i hi
    obtain ⟨hlo, hhi⟩ := List.mem_range'_1.mp hi
    have hread := h (i - lo) (by omega)
    rwa [Nat.add_sub_cancel' hlo] at hread

/-- A run of reads stops at the first entry of the run that nothing has written. -/
theorem fetchRun_error {sp : Space} {start len i : Nat} (hi : i < len)
    (hbefore : ∀ k, k < i → (Memory.read m (start + k)).isSome = true) (hnone : Memory.read m (start + i) = none) :
    fetchRun sp m start len = .error (.unwrittenEntry sp (start + i)) := by
  rw [fetchRun_eq_fetchAll, fetchAll_error_iff]
  refine ⟨_, _, _, range'_eq_append_cons hi, fun k hk => ?_, hnone, rfl⟩
  obtain ⟨hlo, hhi⟩ := List.mem_range'_1.mp hk
  have hread := hbefore (k - start) (by omega)
  rwa [Nat.add_sub_cancel' hlo] at hread

end Reads

theorem exec_of_body_error {i : Instr} {s : State} {f : Fault} (hjudge : judge i s = .nothing)
    (hbody : bodyOf i s = .error f) : exec i s = .fault f := by
  rw [exec_eq_runCommand]
  exact runCommand_of_error hjudge hbody

/-! ### Modulator and transform -/

theorem modBody_error {n : Nat} {s : State} {f : Fault} (h : fetchRun .txmem s.txmem 0 n = .error f) :
    modBody n s = .error f := by
  simp only [modBody, h]

theorem xfrmBody_error {j : Nat} {s : State} {f : Fault}
    (h : fetchRun .smpmem s.smpmem (frameOffset s j) (windowSize s) = .error f) : xfrmBody j s = .error f := by
  simp only [xfrmBody, h]

/-- XFRM with its samples written leaves bins 0 to `W/2` written (R137). -/
theorem xfrmBody_isOk {j : Nat} {s : State} {xs : List (BitVec 16)} (hwindow : WindowLegal s)
    (h : fetchRun .smpmem s.smpmem (frameOffset s j) (windowSize s) = .ok xs) : ∃ m, xfrmBody j s =
      .ok { s with specmem := m, toff := BitVec.ofNat 32 (frameOffset s j) } ∧
      ∀ i, i ≤ windowSize s / 2 → (Memory.read m i).isSome = true := by
  refine ⟨_, by simp only [xfrmBody, h]; rfl, fun i hi => ?_⟩
  have hbins := spectrum_length (m := windowLog s) (xs := xs.map BitVec.toInt) (Nat.le_trans (by decide) hwindow.1)
    (by rw [List.length_map, (fetchRun_ok h).1, windowSize])
  have hlt : i < ((spectrum (windowLog s) (xs.map BitVec.toInt)).map (BitVec.ofNat 32)).length := by
    rw [List.length_map, hbins]
    exact Nat.lt_succ_of_le hi
  rw [Memory.read_storeFromZero, if_pos hlt, List.getElem?_eq_getElem hlt]
  rfl

/-! ### Extractor -/

theorem peakScan_eq_best {best top k : Nat} {xs : List Nat} (h : ∀ x ∈ xs, x ≤ top) :
    peakScan best top k xs = best := by
  induction xs generalizing k with
  | nil => rfl
  | cons x xs ih =>
    obtain ⟨hx, hxs⟩ := List.forall_mem_cons.mp h
    rw [peakScan, if_neg (Nat.not_lt.mpr hx), ih hxs]

/-- A scan that starts below the greatest magnitude ends at the first place that holds it. -/
theorem peakScan_eq_add {best top k n b : Nat} {xs : List Nat} (hn : xs[n]? = some b) (htop : top < b)
    (hmax : ∀ x ∈ xs, x ≤ b) (hfirst : ∀ l x, l < n → xs[l]? = some x → x < b) :
    peakScan best top k xs = k + n := by
  induction xs generalizing best top k n with
  | nil => simp at hn
  | cons x xs ih =>
    obtain ⟨-, hxs⟩ := List.forall_mem_cons.mp hmax
    rw [peakScan]
    cases n with
    | zero =>
      obtain rfl : x = b := by simpa using hn
      rw [if_pos htop, peakScan_eq_best hxs, Nat.add_zero]
    | succ n =>
      have hx : x < b := hfirst 0 x n.succ_pos rfl
      have hrest : ∀ l y, l < n → xs[l]? = some y → y < b := fun l y hl => hfirst (l + 1) y (by omega)
      split
      · rw [ih hn hx hxs hrest]
        omega
      · rw [ih hn htop hxs hrest]
        omega

/-- The peak is the first bin that holds the greatest magnitude (R152). -/
theorem peakBin_eq_add {kLo n b : Nat} {xs : List Nat} (hn : xs[n]? = some b) (hmax : ∀ x ∈ xs, x ≤ b)
    (hfirst : ∀ l x, l < n → xs[l]? = some x → x < b) : peakBin kLo xs = kLo + n := by
  cases xs with
  | nil => simp at hn
  | cons x xs =>
    obtain ⟨-, hxs⟩ := List.forall_mem_cons.mp hmax
    rw [peakBin]
    cases n with
    | zero =>
      obtain rfl : x = b := by simpa using hn
      exact peakScan_eq_best hxs
    | succ n =>
      rw [peakScan_eq_add (xs := xs) hn (hfirst 0 x n.succ_pos rfl) hxs fun l y hl => hfirst (l + 1) y (by omega)]
      omega

/-- The peak of a band of SPECMEM, from what its entries read. -/
theorem peakBin_eq_of_read {s : State} {mags : List Word} {k : Nat} {b : Word}
    (hmags : fetchRun .specmem s.specmem (binLow s) (binHigh s + 1 - binLow s) = .ok mags) (hlo : binLow s ≤ k)
    (hhi : k ≤ binHigh s) (hk : Memory.read s.specmem k = some b)
    (hmax : ∀ i v, binLow s ≤ i → i ≤ binHigh s → Memory.read s.specmem i = some v → v.toNat ≤ b.toNat)
    (hfirst : ∀ i v, binLow s ≤ i → i < k → Memory.read s.specmem i = some v → v.toNat < b.toNat) :
    peakBin (binLow s) (mags.map BitVec.toNat) = k := by
  obtain ⟨hlen, hread⟩ := fetchRun_ok hmags
  have hentry : ∀ {n x}, (mags.map BitVec.toNat)[n]? = some x → n < mags.length ∧
      ∃ v, Memory.read s.specmem (binLow s + n) = some v ∧ v.toNat = x := by
    intro n x hx
    rw [List.getElem?_map, Option.map_eq_some_iff] at hx
    obtain ⟨v, hv, rfl⟩ := hx
    have hn : n < mags.length := (List.getElem?_eq_some_iff.mp hv).1
    exact ⟨hn, v, (hread n (hlen ▸ hn)).trans hv, rfl⟩
  have hpeak : (mags.map BitVec.toNat)[k - binLow s]? = some b.toNat := by
    rw [List.getElem?_map, ← hread _ (by omega), Nat.add_sub_cancel' hlo, hk]
    rfl
  rw [peakBin_eq_add hpeak, Nat.add_sub_cancel' hlo]
  · intro x hx
    obtain ⟨n, hn⟩ := List.getElem?_of_mem hx
    obtain ⟨hlt, v, hv, rfl⟩ := hentry hn
    exact hmax _ v (Nat.le_add_right _ _) (by omega) hv
  · intro l x hl hx
    obtain ⟨-, v, hv, rfl⟩ := hentry hx
    exact hfirst _ v (Nat.le_add_right _ _) (by omega) hv

theorem xtrcBody_error_of_band {s : State} {f : Fault}
    (h : fetchRun .specmem s.specmem (binLow s) (binHigh s + 1 - binLow s) = .error f) : xtrcBody s = .error f := by
  simp only [xtrcBody, h]

theorem xtrcBody_error_of_refinement {s : State} {mags : List Word} {f : Fault}
    (hmags : fetchRun .specmem s.specmem (binLow s) (binHigh s + 1 - binLow s) = .ok mags)
    (h : refinement (peakBin (binLow s) (mags.map BitVec.toNat)) s = .error f) : xtrcBody s = .error f := by
  simp only [xtrcBody, hmags, h]

theorem refinement_error {k : Nat} {s : State} {f : Fault} (hinterp : s.ctrl.interp = true)
    (h : fetchAll .specmem s.specmem [k - 1, k, k + 1] = .error f) : refinement k s = .error f := by
  simp only [refinement, hinterp, h, if_true]

theorem refinement_isOk {k : Nat} {s : State} (h : ∀ i ∈ [k - 1, k, k + 1], (Memory.read s.specmem i).isSome = true) :
    ∃ delta, refinement k s = .ok delta := by
  obtain ⟨mags, hmags⟩ := fetchAll_isOk (sp := .specmem) h
  rw [refinement, hmags]
  split
  · exact ⟨_, rfl⟩
  · exact ⟨_, rfl⟩

/-- XTRC meets no unwritten entry where bins 0 to `W/2` are written: the band and the neighbours of its peak lie
there (R151, R153). -/
theorem xtrcBody_isOk {s : State} (hwindow : WindowLegal s) (hband : BandLegal s)
    (hspec : ∀ i, i ≤ windowSize s / 2 → (Memory.read s.specmem i).isSome = true) : ∃ t, xtrcBody s = .ok t := by
  have hhigh := binHigh_lt s hwindow
  obtain ⟨mags, hmags⟩ := fetchRun_isOk (sp := .specmem) (m := s.specmem) (start := binLow s)
    (len := binHigh s + 1 - binLow s) fun n hn => hspec _ (by omega)
  obtain ⟨-, hpeak⟩ := peakBin_mem_band hband (fetchRun_ok hmags).1
  obtain ⟨delta, hdelta⟩ := refinement_isOk (k := peakBin (binLow s) (mags.map BitVec.toNat)) (s := s) fun i hi => by
    simp only [List.mem_cons, List.not_mem_nil, or_false] at hi
    exact hspec i (by omega)
  exact ⟨_, by simp only [xtrcBody, hmags, hdelta]; rfl⟩

/-! ### The loop of ANLZ -/

theorem analyseFrame_error {j : Nat} {s : State} {f : Fault}
    (h : fetchRun .smpmem s.smpmem (frameOffset s j) (windowSize s) = .error f) : analyseFrame j s = .error f := by
  simp only [analyseFrame, xfrmBody_error h]

theorem analyseFrame_isOk {j : Nat} {s : State} {xs : List (BitVec 16)} (hwindow : WindowLegal s) (hband : BandLegal s)
    (h : fetchRun .smpmem s.smpmem (frameOffset s j) (windowSize s) = .ok xs) : ∃ t, analyseFrame j s = .ok t := by
  obtain ⟨m, hxfrm, hbins⟩ := xfrmBody_isOk hwindow h
  obtain ⟨u, hxtrc⟩ := xtrcBody_isOk (s := { s with specmem := m, toff := BitVec.ofNat 32 (frameOffset s j) })
    hwindow hband hbins
  exact ⟨_, by simp only [analyseFrame, hxfrm, hxtrc]; rfl⟩

/-- ANLZ's loop stops in the first frame with a sample that nothing has written. -/
theorem analyseFrames_error {count first j : Nat} {s : State} {f : Fault} (hwindow : WindowLegal s)
    (hband : BandLegal s) (hfirst : first ≤ j) (hj : j < first + count)
    (hbefore : ∀ l, l < j → ∃ xs, fetchRun .smpmem s.smpmem (frameOffset s l) (windowSize s) = .ok xs)
    (h : fetchRun .smpmem s.smpmem (frameOffset s j) (windowSize s) = .error f) :
    analyseFrames count first s = .error f := by
  induction count generalizing first s with
  | zero => omega
  | succ count ih =>
    obtain rfl | hlt : first = j ∨ first < j := by omega
    · simp only [analyseFrames, analyseFrame_error h]
    · obtain ⟨xs, hxs⟩ := hbefore first hlt
      obtain ⟨t, ht⟩ := analyseFrame_isOk hwindow hband hxs
      simp only [analyseFrames, ht]
      rw [analyseFrame_frame ht]
      exact ih hwindow hband hlt (by omega) hbefore h

theorem anlzBody_error {s : State} {f : Fault} (h : analyseFrames (frameCount s) 0 s = .error f) :
    anlzBody s = .error f := by
  simp only [anlzBody, h]

theorem demodBody_error {s : State} {f : Fault} (h : anlzBody s = .error f) : demodBody s = .error f := by
  simp only [demodBody, h]

/-! ### Decoder -/

theorem decodePosition_error {s : State} {b : Nat} {f : Fault}
    (h : fetchAll .frmmem s.frmmem (framesInWindow s b) = .error f) : decodePosition s b = .error f := by
  simp only [decodePosition, h]

theorem decodePosition_isOk {s : State} {b : Nat}
    (h : ∀ j ∈ framesInWindow s b, (Memory.read s.frmmem j).isSome = true) : ∃ v, decodePosition s b = .ok v := by
  obtain ⟨frames, hframes⟩ := fetchAll_isOk (sp := .frmmem) h
  exact ⟨_, by simp only [decodePosition, hframes]; rfl⟩

theorem decodePositions_error {s : State} {before after : List Nat} {b : Nat} {f : Fault}
    (hbefore : ∀ c ∈ before, ∃ v, decodePosition s c = .ok v) (h : decodePosition s b = .error f) :
    decodePositions s (before ++ b :: after) = .error f := by
  induction before with
  | nil => simp only [List.nil_append, decodePositions, h]
  | cons c before ih =>
    obtain ⟨⟨v, hv⟩, hrest⟩ := List.forall_mem_cons.mp hbefore
    simp only [List.cons_append, decodePositions, hv, ih hrest]

theorem decBody_error {s : State} {f : Fault} (h : decodePositions s (List.range (bitCount s)) = .error f) :
    decBody s = .error f := by
  simp only [decBody, h]

theorem mem_framesInWindow {s : State} {b j : Nat} : j ∈ framesInWindow s b ↔
    j < s.nfrm.toNat ∧ b * s.spb.toNat ≤ frameCentre s j ∧ frameCentre s j < (b + 1) * s.spb.toNat := by
  rw [framesInWindow, List.mem_filter, List.mem_range, centreInWindow, decide_eq_true_iff]

theorem lt_of_frameCentre_lt {s : State} {i j : Nat} (h : frameCentre s i < frameCentre s j) : i < j :=
  Nat.lt_of_mul_lt_mul_right (a := s.hop.toNat) (Nat.lt_of_add_lt_add_right h)

theorem framesInWindow_eq_append_cons {s : State} {b j : Nat} (hj : j ∈ framesInWindow s b) :
    framesInWindow s b = (List.range' 0 j).filter (centreInWindow s b) ++
      j :: (List.range' (0 + j + 1) (s.nfrm.toNat - (j + 1))).filter (centreInWindow s b) := by
  obtain ⟨hrange, hin⟩ := List.mem_filter.mp hj
  rw [framesInWindow, List.range_eq_range', range'_eq_append_cons (List.mem_range.mp hrange), List.filter_append,
    Nat.zero_add, List.filter_cons_of_pos hin]

/-- The window of a frame stops at that frame, if it is the first unwritten one. -/
theorem decodePosition_error_of_read {s : State} {b j : Nat} (hj : j ∈ framesInWindow s b)
    (hbefore : ∀ k, k < j → (Memory.read s.frmmem k).isSome = true) (hnone : Memory.read s.frmmem j = none) :
    decodePosition s b = .error (.unwrittenEntry .frmmem j) := by
  refine decodePosition_error (fetchAll_error_iff.mpr
    ⟨_, j, _, framesInWindow_eq_append_cons hj, fun k hk => hbefore k ?_, hnone, rfl⟩)
  have hrange := (List.mem_range'_1.mp (List.mem_of_mem_filter hk)).2
  rwa [Nat.zero_add] at hrange

/-- The windows before that of frame `j` hold frames below `j` only. -/
theorem lt_of_mem_earlier_window {s : State} {b c i j : Nat} (hj : b * s.spb.toNat ≤ frameCentre s j) (hc : c < b)
    (hi : i ∈ framesInWindow s c) : i < j := by
  obtain ⟨-, -, hcentre⟩ := mem_framesInWindow.mp hi
  exact lt_of_frameCentre_lt ((hcentre.trans_le (Nat.mul_le_mul_right _ hc)).trans_le hj)

theorem decBody_error_of_read {s : State} {j : Nat} (hspb : s.spb.toNat ≠ 0) (hnfrm : j < s.nfrm.toNat)
    (hcentre : frameCentre s j < bitCount s * s.spb.toNat) (hnone : Memory.read s.frmmem j = none)
    (hbefore : ∀ k, k < j → (Memory.read s.frmmem k).isSome = true) :
    decBody s = .error (.unwrittenEntry .frmmem j) := by
  have hpos : 0 < s.spb.toNat := Nat.pos_of_ne_zero hspb
  have hwindow : frameCentre s j / s.spb.toNat < bitCount s := (Nat.div_lt_iff_lt_mul hpos).mpr hcentre
  have hlow : frameCentre s j / s.spb.toNat * s.spb.toNat ≤ frameCentre s j := Nat.div_mul_le_self _ _
  have hhigh : frameCentre s j < (frameCentre s j / s.spb.toNat + 1) * s.spb.toNat :=
    (Nat.div_lt_iff_lt_mul hpos).mp (Nat.lt_succ_self _)
  refine decBody_error ?_
  rw [List.range_eq_range', range'_eq_append_cons hwindow, Nat.zero_add]
  refine decodePositions_error (fun c hc => decodePosition_isOk fun i hi => hbefore i ?_)
    (decodePosition_error_of_read (mem_framesInWindow.mpr ⟨hnfrm, hlow, hhigh⟩) hbefore hnone)
  have hlt := (List.mem_range'_1.mp hc).2
  exact lt_of_mem_earlier_window hlow (by omega) hi

/-! ### The statement -/

/-- Settles O33: each body's reads succeed up to the first unwritten entry and stop there. -/
theorem unwrittenReadsStop : Obligations.UnwrittenReadsStop := by
  refine ⟨?mod, ?xfrm, ?band, ?neighbours, ?frames, ?dec⟩
  case mod =>
    intro n i s hjudge hi hnone hbefore
    rw [← Nat.zero_add i] at hnone ⊢
    refine exec_of_body_error hjudge (modBody_error (fetchRun_error hi (fun k hk => ?_) hnone))
    rw [Nat.zero_add]
    exact hbefore k hk
  case xfrm =>
    exact fun j i s hjudge hi hnone hbefore =>
      exec_of_body_error hjudge (xfrmBody_error (fetchRun_error hi hbefore hnone))
  case band =>
    intro i s hjudge hlo hhi hnone hbefore
    obtain ⟨n, rfl⟩ := Nat.exists_eq_add_of_le hlo
    refine exec_of_body_error hjudge (xtrcBody_error_of_band (fetchRun_error (by omega) (fun k hk => ?_) hnone))
    exact hbefore _ (Nat.le_add_right _ _) (by omega)
  case neighbours =>
    intro k b s hjudge hinterp hwritten hlo hhi hk hmax hfirst
    obtain ⟨mags, hmags⟩ := fetchRun_isOk (sp := .specmem) (written_iff.mp hwritten)
    have hpeak := peakBin_eq_of_read hmags hlo hhi hk hmax hfirst
    have hstop : ∀ f, fetchAll .specmem s.specmem [k - 1, k, k + 1] = .error f → exec .xtrc s = .fault f :=
      fun f hf => exec_of_body_error hjudge
        (xtrcBody_error_of_refinement hmags (by rw [hpeak]; exact refinement_error hinterp hf))
    refine ⟨fun hnone => hstop _ ?lower, fun hsome hnone => hstop _ ?upper⟩
    case lower => exact fetchAll_error_iff.mpr ⟨[], k - 1, [k, k + 1], rfl, by simp, hnone, rfl⟩
    case upper => exact fetchAll_error_iff.mpr ⟨[k - 1, k], k + 1, [], rfl, by simp [hsome, hk], hnone, rfl⟩
  case frames =>
    intro i hi j n s hjudge hj hn hnone hbefore hearlier
    have hset : relevantSet i = allNine := by
      obtain rfl | rfl : i = .anlz ∨ i = .demod := by simpa using hi
      · rfl
      · rfl
    obtain ⟨hwindow, hband, -⟩ := analysisLegal_of_judge hjudge hset
    have hloop := analyseFrames_error (first := 0) (count := frameCount s) hwindow hband (Nat.zero_le j) (by omega)
      (fun l hl => fetchRun_isOk (sp := .smpmem) (written_iff.mp (hearlier l hl))) (fetchRun_error hn hbefore hnone)
    refine exec_of_body_error hjudge ?_
    obtain rfl | rfl : i = .anlz ∨ i = .demod := by simpa using hi
    · exact anlzBody_error hloop
    · exact demodBody_error (anlzBody_error hloop)
  case dec =>
    exact fun j s hjudge hj hcentre hnone hbefore =>
      exec_of_body_error hjudge (decBody_error_of_read (spb_ne_zero_of_judge hjudge rfl) hj hcentre hnone hbefore)

end Sys2Proof.Machine
end

section
/-! PROOFS. What each command may write (spec/20_memory.md R80, spec/44_control.md R191). -/

namespace Sys2Proof.Machine

open Sys2Proof.Safety

/-! ### The writers of the registers and memories -/

/-- The writer column of R22 and R80: what only the commands named may change. -/
structure WritersOnly (i : Instr) (s t : State) : Prop where
  modulator : t.phase ≠ s.phase ∨ t.smpmem ≠ s.smpmem ∨ t.slen ≠ s.slen → ∃ n, i = .mod n
  transform : t.specmem ≠ s.specmem ∨ t.toff ≠ s.toff → (∃ j, i = .xfrm j) ∨ i = .anlz ∨ i = .demod
  extractor : t.peak ≠ s.peak ∨ t.peakmag ≠ s.peakmag ∨ t.freq ≠ s.freq → i = .xtrc ∨ i = .anlz ∨ i = .demod
  frames : t.frmmem ≠ s.frmmem ∨ t.nfrm ≠ s.nfrm → i = .anlz ∨ i = .demod
  decoder : t.rxmem ≠ s.rxmem ∨ t.nbits ≠ s.nbits ∨ t.errcnt ≠ s.errcnt ∨ t.errpos ≠ s.errpos →
    i = .dec ∨ i = .demod

theorem WritersOnly.refl (i : Instr) (s : State) : WritersOnly i s s := by constructor <;> simp

/-- Completion writes STATUS, CFGCAUSE and ESTICKY, none of which is in the table. -/
theorem WritersOnly.complete {i : Instr} {s t : State} (h : WritersOnly i s t) (r : Raised) (b : Bool) :
    WritersOnly i s (t.complete r b) :=
  { h with }

theorem writersOnly_bodyOf {i : Instr} {s t : State} (h : bodyOf i s = .ok t) : WritersOnly i s t := by
  cases i with
  | nop => cases h; exact .refl ..
  | check => cases h; exact .refl ..
  | mod n => obtain ⟨_, _, rfl⟩ := modBody_ok h; constructor <;> simp
  | xfrm j => obtain ⟨_, _, rfl⟩ := xfrmBody_ok h; constructor <;> simp
  | xtrc => obtain ⟨_, _, _, _, rfl⟩ := xtrcBody_ok h; constructor <;> simp
  | anlz => rw [anlzBody_frame h]; constructor <;> simp
  | dec => obtain ⟨_, _, rfl⟩ := decBody_ok h; constructor <;> simp
  | demod =>
    obtain ⟨u, hanlz, hdec⟩ := demodBody_ok h
    obtain ⟨_, _, rfl⟩ := decBody_ok hdec
    rw [anlzBody_frame hanlz]
    constructor <;> simp

/-! ### The ranges of entries -/

/-- In each memory the entries from the bound up read as before. -/
def KeptFrom (bound : Space → Nat) (s t : State) : Prop :=
  ∀ sp k, bound sp ≤ k → readEntry t sp k = readEntry s sp k

theorem KeptFrom.trans {b c d : Space → Nat} {s t u : State} (hst : KeptFrom b s t) (htu : KeptFrom c t u)
    (hb : ∀ sp, b sp ≤ d sp) (hc : ∀ sp, c sp ≤ d sp) : KeptFrom d s u :=
  fun sp k hk => (htu sp k ((hc sp).trans hk)).trans (hst sp k ((hb sp).trans hk))

theorem Memory.read_storeFromZero_of_le {w : Nat} (m : Memory w) {vs : List (BitVec w)} {k : Nat}
    (h : vs.length ≤ k) : Memory.read (Memory.storeFromZero m vs) k = Memory.read m k := by
  rw [Memory.read_storeFromZero, if_neg (Nat.not_lt.mpr h)]

theorem keptFrom_modBody {n : Nat} {s t : State} (h : modBody n s = .ok t) :
    KeptFrom (writtenBelow (.mod n) · s) s t := by
  obtain ⟨bits, hbits, rfl⟩ := modBody_ok h
  have hlen : bits.length = n := (fetchRun_ok hbits).1
  intro sp k hk
  cases sp with
  | smpmem =>
    simp only [readEntry]
    rw [Memory.read_storeFromZero_of_le]
    rwa [modulate_length, List.length_map, hlen]
  | _ => rfl

/-- One transform touches bins 0 to `W/2` alone (R137). -/
theorem keptFrom_xfrmBody {j : Nat} {s t : State} (hwindow : WindowLegal s) (h : xfrmBody j s = .ok t) :
    KeptFrom (writtenBelow (.xfrm j) · s) s t := by
  obtain ⟨xs, hxs, rfl⟩ := xfrmBody_ok h
  have hbins := spectrum_length (m := windowLog s) (xs := xs.map BitVec.toInt) (Nat.le_trans (by decide) hwindow.1)
    (by rw [List.length_map, (fetchRun_ok hxs).1, windowSize])
  intro sp k hk
  cases sp with
  | specmem =>
    simp only [readEntry]
    rw [Memory.read_storeFromZero_of_le]
    rwa [List.length_map, hbins]
  | _ => rfl

/-- Frame `j` touches the bins of one transform and FRMMEM's entry `j` (R157). -/
theorem keptFrom_analyseFrame {j : Nat} {s t : State} (hwindow : WindowLegal s) (hj : j < frameCount s)
    (h : analyseFrame j s = .ok t) : KeptFrom (writtenBelow .anlz · s) s t := by
  obtain ⟨u, v, hxfrm, hxtrc, rfl⟩ := analyseFrame_ok h
  have hu := keptFrom_xfrmBody hwindow hxfrm
  obtain ⟨_, _, _, _, rfl⟩ := xtrcBody_ok hxtrc
  intro sp k hk
  cases sp with
  | specmem => exact hu .specmem k (by simpa [writtenBelow, Nat.ne_zero_of_lt hj] using hk)
  | frmmem =>
    have hne : k ≠ j := (hj.trans_le hk).ne'
    exact (Memory.read_write_other _ _ hne).trans (hu .frmmem k (Nat.zero_le k))
  | smpmem => exact hu .smpmem k hk
  | txmem => exact hu .txmem k hk
  | rxmem => exact hu .rxmem k hk

theorem writtenBelow_anlz (sp : Space) (s : State) : writtenBelow .anlz sp s =
    if sp = .frmmem then frameCount s
    else if sp = .specmem ∧ frameCount s ≠ 0 then 2 ^ s.wlog2.toNat / 2 + 1
    else 0 := by
  cases sp with
  | specmem => simp [writtenBelow]
  | _ => rfl

/-- Every pass of ANLZ's loop runs in the same configuration, so one bound serves them all (R157). -/
theorem keptFrom_anlzBody {s t : State} (hwindow : WindowLegal s) (h : anlzBody s = .ok t) :
    KeptFrom (writtenBelow .anlz · s) s t := by
  obtain ⟨u, hloop, rfl⟩ := anlzBody_ok h
  have hu : u.wlog2 = s.wlog2 ∧ frameCount u = frameCount s ∧ KeptFrom (writtenBelow .anlz · s) s u := by
    refine analyseFrames_induction
      (P := fun a => a.wlog2 = s.wlog2 ∧ frameCount a = frameCount s ∧ KeptFrom (writtenBelow .anlz · s) s a)
      hloop ⟨rfl, rfl, fun _ _ _ => rfl⟩ ?_
    rintro j a b - hj ⟨hwlog, hcount, ha⟩ hframe
    have hb := keptFrom_analyseFrame (by rw [WindowLegal, hwlog]; exact hwindow) (by omega) hframe
    have hbound : ∀ sp, writtenBelow .anlz sp a = writtenBelow .anlz sp s := fun sp => by
      rw [writtenBelow_anlz, writtenBelow_anlz, hwlog, hcount]
    refine ⟨?_, ?_, ha.trans hb (fun _ => le_rfl) fun sp => (hbound sp).le⟩ <;> rw [analyseFrame_frame hframe]
    · exact hwlog
    · exact hcount
  exact hu.2.2

theorem keptFrom_decBody {s t : State} (h : decBody s = .ok t) : KeptFrom (writtenBelow .dec · s) s t := by
  obtain ⟨codes, hcodes, rfl⟩ := decBody_ok h
  have hlen : codes.length = bitCount s := by simpa using decodePositions_length hcodes
  intro sp k hk
  cases sp with
  | rxmem =>
    simp only [readEntry]
    rw [Memory.read_storeFromZero_of_le]
    rwa [hlen]
  | _ => rfl

theorem writtenBelow_dec (sp : Space) (s : State) :
    writtenBelow .dec sp s = if sp = .rxmem then bitCount s else 0 := by
  cases sp <;> rfl

/-- DEMOD writes the ranges of ANLZ and those of DEC (R80). -/
theorem writtenBelow_demod (sp : Space) (s : State) :
    writtenBelow .demod sp s = max (writtenBelow .anlz sp s) (writtenBelow .dec sp s) := by
  cases sp with
  | rxmem => exact (Nat.zero_max _).symm
  | _ => exact (Nat.max_zero _).symm

/-- A body that runs, its checks passed, leaves the entries outside the ranges of R80 as they were. -/
theorem keptFrom_bodyOf {i : Instr} {s t : State} (hjudge : judge i s = .nothing) (h : bodyOf i s = .ok t) :
    KeptFrom (writtenBelow i · s) s t := by
  cases i with
  | nop => cases h; exact fun _ _ _ => rfl
  | check => cases h; exact fun _ _ _ => rfl
  | mod n => exact keptFrom_modBody h
  | xfrm j => exact keptFrom_xfrmBody (windowLegal_of_judge hjudge rfl) h
  | xtrc =>
    obtain ⟨_, _, _, _, rfl⟩ := xtrcBody_ok h
    intro sp k _
    cases sp <;> rfl
  | anlz => exact keptFrom_anlzBody (windowLegal_of_judge hjudge rfl) h
  | dec => exact keptFrom_decBody h
  | demod =>
    obtain ⟨u, hanlz, hdec⟩ := demodBody_ok h
    have hbound : ∀ sp, writtenBelow .dec sp u = writtenBelow .dec sp s := fun sp => by
      rw [writtenBelow_dec, writtenBelow_dec, anlzBody_frame hanlz]
      rfl
    refine (keptFrom_anlzBody (windowLegal_of_judge hjudge rfl) hanlz).trans (keptFrom_decBody hdec)
      (fun sp => ?_) (fun sp => ?_) <;> rw [writtenBelow_demod]
    · exact le_max_left _ _
    · exact (hbound sp).le.trans (le_max_right _ _)

/-! ### The statement -/

theorem readEntry_complete (s : State) (r : Raised) (b : Bool) (sp : Space) (k : Nat) :
    readEntry (s.complete r b) sp k = readEntry s sp k := by
  cases sp <;> rfl

/-- The fields no command writes (R80). -/
theorem exec_keeps_parameters {i : Instr} {s t : State} (h : exec i s = .next t) :
    t.ctrl = s.ctrl ∧ t.fcenter = s.fcenter ∧ t.fdev = s.fdev ∧ t.fmargin = s.fmargin ∧ t.spb = s.spb ∧
    t.wlog2 = s.wlog2 ∧ t.hop = s.hop ∧ t.mthresh = s.mthresh ∧ t.txmem = s.txmem ∧ t.cmdlatch = s.cmdlatch ∧
    t.turns = s.turns ∧ t.rdata = s.rdata ∧ t.draws = s.draws := by
  rw [exec_eq_runCommand] at h
  obtain ⟨-, u, hbody, rfl⟩ | ⟨c, -, rfl⟩ | ⟨-, rfl⟩ := runCommand_next h
  · rw [bodyOf_frame hbody]
    simp
  · simp
  · simp

theorem writersOnly_exec {i : Instr} {s t : State} (h : exec i s = .next t) : WritersOnly i s t := by
  rw [exec_eq_runCommand] at h
  obtain ⟨-, u, hbody, rfl⟩ | ⟨c, -, rfl⟩ | ⟨-, rfl⟩ := runCommand_next h
  · exact (writersOnly_bodyOf hbody).complete _ _
  · exact (WritersOnly.refl i s).complete _ _
  · exact (WritersOnly.refl i s).complete _ _

/-- A command that raised an error wrote only what completion writes (R191). -/
theorem onlyCompletion_of_error {i : Instr} {s t : State} (h : exec i s = .next t)
    (herr : t.status.cfgErr = true ∨ t.status.cmdErr = true) : OnlyCompletion s t := by
  rw [exec_eq_runCommand] at h
  obtain ⟨-, u, -, rfl⟩ | ⟨c, -, rfl⟩ | ⟨-, rfl⟩ := runCommand_next h
  · simp [Raised.isConfiguration, Raised.isCommand] at herr
  · exact s.complete_eq_update _ _
  · exact s.complete_eq_update _ _

theorem keptFrom_exec {i : Instr} {s t : State} (h : exec i s = .next t) : KeptFrom (writtenBelow i · s) s t := by
  rw [exec_eq_runCommand] at h
  obtain ⟨hjudge, u, hbody, rfl⟩ | ⟨c, -, rfl⟩ | ⟨-, rfl⟩ := runCommand_next h
  · exact fun sp k hk => (readEntry_complete ..).trans (keptFrom_bodyOf hjudge hbody sp k hk)
  · exact fun sp k _ => readEntry_complete ..
  · exact fun sp k _ => readEntry_complete ..

/-- Settles O27: what every outcome of a command keeps, and the ranges of R80 memory by memory. -/
theorem commandsWriteOnlyTheirFootprint : Obligations.CommandsWriteOnlyTheirFootprint := by
  refine ⟨fun i s t h => ?writes, fun s sp => ⟨fun i hi => ?none, fun n => ?mod, fun j => ?xfrm, writtenBelow_anlz sp s,
    writtenBelow_dec sp s, writtenBelow_demod sp s⟩⟩
  case writes =>
    obtain ⟨hmod, hxfrm, hxtrc, hframes, hdec⟩ := writersOnly_exec h
    exact ⟨exec_keeps_parameters h, hmod, hxfrm, hxtrc, hframes, hdec, onlyCompletion_of_error h, keptFrom_exec h⟩
  case none =>
    obtain rfl | rfl | rfl : i = .nop ∨ i = .check ∨ i = .xtrc := by simpa using hi
    all_goals rfl
  case mod => cases sp <;> rfl
  case xfrm => cases sp <;> rfl

end Sys2Proof.Machine
end

section
/-! PROOFS. What the host does while a command is pending, and why the command does not see it (spec/20_memory.md R66,
R76, R78). -/

namespace Sys2Proof.Machine

/-- The fields a busy host's transaction can touch. -/
structure Traces where
  busyErr : Bool
  addrErr : Bool
  rdata : Option Word
  draws : Nat

def State.traces (s : State) : Traces := ⟨s.esticky.busyErr, s.esticky.addrErr, s.rdata, s.draws⟩

/-- The state with the traces `τ` in place of its own. -/
def State.withTraces (τ : Traces) (s : State) : State :=
  { s with
    esticky := { s.esticky with busyErr := τ.busyErr, addrErr := τ.addrErr }, rdata := τ.rdata, draws := τ.draws }

/-- The outcome with its next state, if it has one, changed. -/
def mapNext (f : State → State) : Host.Outcome State Fault Refusal → Host.Outcome State Fault Refusal
  | .next t => .next (f t)
  | .fault r => .fault r
  | .refused r => .refused r

/-! ### The transactions -/

/-- A read leaves its traces and nothing else (R62). -/
theorem busRead_eq_withTraces (addr : Addr) (s : State) : busRead addr s = s.withTraces (busRead addr s).traces := by
  obtain h | ⟨v, h⟩ | ⟨-, h⟩ | ⟨f, h⟩ := busRead_cases addr s <;> rw [h] <;> rfl

/-- A write with BUSY = 1 leaves its traces and nothing else (R63 steps 1 to 3, R66). -/
theorem busWrite_eq_withTraces {s : State} (hbusy : s.status.busy = true) (addr : Addr) (d : Word) :
    busWrite addr d s = s.withTraces (busWrite addr d s).traces := by
  obtain h | ⟨-, h⟩ | ⟨hidle, -⟩ := busWrite_cases addr d s
  · rw [h]; rfl
  · rw [h]; rfl
  · simp [hbusy] at hidle

/-! ### The commands -/

section Commutes

variable (τ : Traces)

/-- The checks before a body read no trace (R191 to R193). -/
theorem judge_withTraces (i : Instr) (s : State) : judge i (s.withTraces τ) = judge i s := by
  cases i <;> rfl

/-! No body reads or writes a trace, so each commutes with a change of them. -/

theorem modBody_withTraces (n : Nat) (s : State) :
    modBody n (s.withTraces τ) = (modBody n s).map (State.withTraces τ) := by
  have hmem : (s.withTraces τ).txmem = s.txmem := rfl
  rw [modBody, hmem, modBody]
  cases fetchRun .txmem s.txmem 0 n <;> rfl

theorem xfrmBody_withTraces (j : Nat) (s : State) :
    xfrmBody j (s.withTraces τ) = (xfrmBody j s).map (State.withTraces τ) := by
  have hmem : (s.withTraces τ).smpmem = s.smpmem := rfl
  have hoffset : frameOffset (s.withTraces τ) j = frameOffset s j := rfl
  have hsize : windowSize (s.withTraces τ) = windowSize s := rfl
  rw [xfrmBody, hmem, hoffset, hsize, xfrmBody]
  cases fetchRun .smpmem s.smpmem (frameOffset s j) (windowSize s) <;> rfl

theorem xtrcBody_withTraces (s : State) : xtrcBody (s.withTraces τ) = (xtrcBody s).map (State.withTraces τ) := by
  have hmem : (s.withTraces τ).specmem = s.specmem := rfl
  have hlow : binLow (s.withTraces τ) = binLow s := rfl
  have hhigh : binHigh (s.withTraces τ) = binHigh s := rfl
  have hrefine : ∀ k, refinement k (s.withTraces τ) = refinement k s := fun _ => rfl
  simp only [xtrcBody, hmem, hlow, hhigh, hrefine]
  cases fetchRun .specmem s.specmem (binLow s) (binHigh s + 1 - binLow s) with
  | error f => rfl
  | ok mags =>
    dsimp only
    cases refinement (peakBin (binLow s) (mags.map BitVec.toNat)) s <;> rfl

theorem analyseFrame_withTraces (j : Nat) (s : State) :
    analyseFrame j (s.withTraces τ) = (analyseFrame j s).map (State.withTraces τ) := by
  rw [analyseFrame, xfrmBody_withTraces, analyseFrame]
  cases xfrmBody j s with
  | error f => rfl
  | ok u =>
    simp only [Except.map, xtrcBody_withTraces]
    cases xtrcBody u <;> rfl

theorem analyseFrames_withTraces (count j : Nat) (s : State) :
    analyseFrames count j (s.withTraces τ) = (analyseFrames count j s).map (State.withTraces τ) := by
  induction count generalizing j s with
  | zero => rfl
  | succ count ih =>
    rw [analyseFrames, analyseFrame_withTraces, analyseFrames]
    cases analyseFrame j s with
    | error f => rfl
    | ok u => exact ih (j + 1) u

theorem anlzBody_withTraces (s : State) : anlzBody (s.withTraces τ) = (anlzBody s).map (State.withTraces τ) := by
  have hcount : frameCount (s.withTraces τ) = frameCount s := rfl
  rw [anlzBody, analyseFrames_withTraces, hcount, anlzBody]
  cases analyseFrames (frameCount s) 0 s <;> rfl

theorem decodePositions_withTraces (s : State) (bs : List Nat) :
    decodePositions (s.withTraces τ) bs = decodePositions s bs := by
  induction bs with
  | nil => rfl
  | cons b bs ih =>
    have hposition : decodePosition (s.withTraces τ) b = decodePosition s b := rfl
    rw [decodePositions, decodePositions, hposition, ih]

theorem decBody_withTraces (s : State) : decBody (s.withTraces τ) = (decBody s).map (State.withTraces τ) := by
  have hcount : bitCount (s.withTraces τ) = bitCount s := rfl
  rw [decBody, decodePositions_withTraces, hcount, decBody]
  cases decodePositions s (List.range (bitCount s)) <;> rfl

theorem bodyOf_withTraces (i : Instr) (s : State) :
    bodyOf i (s.withTraces τ) = (bodyOf i s).map (State.withTraces τ) := by
  cases i with
  | nop => rfl
  | check => rfl
  | mod n => exact modBody_withTraces ..
  | xfrm j => exact xfrmBody_withTraces ..
  | xtrc => exact xtrcBody_withTraces ..
  | anlz => exact anlzBody_withTraces ..
  | dec => exact decBody_withTraces ..
  | demod =>
    rw [bodyOf, demodBody, anlzBody_withTraces, demodBody]
    cases anlzBody s with
    | error f => rfl
    | ok u => exact decBody_withTraces ..

theorem exec_withTraces (i : Instr) (s : State) :
    exec i (s.withTraces τ) = mapNext (State.withTraces τ) (exec i s) := by
  rw [exec_eq_runCommand, exec_eq_runCommand, runCommand, judge_withTraces, bodyOf_withTraces, runCommand]
  cases judge i s with
  | nothing => cases bodyOf i s <;> rfl
  | configuration c => rfl
  | command => rfl

/-- CORE's turn does the same whatever the traces are, and hands them on. -/
theorem coreTurn_withTraces (s : State) : coreTurn (s.withTraces τ) = mapNext (State.withTraces τ) (coreTurn s) := by
  have hstatus : (s.withTraces τ).status = s.status := rfl
  have hlatch : (s.withTraces τ).cmdlatch = s.cmdlatch := rfl
  rw [coreTurn, hstatus, hlatch, coreTurn]
  split
  · cases decode s.cmdlatch with
    | cmd i => exact exec_withTraces ..
    | illegal why => rfl
  · rfl

end Commutes

/-- Settles O60: a busy host leaves nothing but its traces, and CORE's turn commutes with a change of those. -/
theorem hostCannotDisturbPendingCommand : Obligations.HostCannotDisturbPendingCommand := by
  intro s h rest hbusy hcore hreset
  suffices hturn : ∃ s1, serveTurn h { s with turns := rest } = .next s1 ∧
      s1 = { s with turns := rest }.withTraces s1.traces by
    obtain ⟨s1, hserve, htraces⟩ := hturn
    refine ⟨s1, hserve, (congrArg coreTurn htraces).trans ((coreTurn_withTraces _ _).trans ?_)⟩
    cases coreTurn { s with turns := rest } <;> rfl
  cases h with
  | core => exact absurd rfl hcore
  | reset => exact absurd rfl hreset
  | read addr => exact ⟨_, rfl, busRead_eq_withTraces addr _⟩
  | write addr d => exact ⟨_, rfl, busWrite_eq_withTraces (s := { s with turns := rest }) hbusy addr d⟩

end Sys2Proof.Machine
end

section
/-! PROOFS. The address map and what it decides before any register or entry is touched (spec/20_memory.md R61, R64 to
R66, R75). -/

namespace Sys2Proof.Machine

/-! ### Misaligned, unmapped, mapped -/

theorem targetOf_eq_misaligned_iff {a : Addr} : targetOf a = .misaligned ↔ a.toNat % 4 ≠ 0 := by
  have hregister : ∀ n, registerAt n ≠ .misaligned := fun n => by
    unfold registerAt
    split <;> simp
  constructor
  · intro h haligned
    rw [targetOf, if_neg (not_not.mpr haligned)] at h
    split_ifs at h
    exact hregister _ h
  · exact fun h => if_pos h

/-- R22 has 26 rows; the word offsets above them hold no register. -/
theorem registerAt_eq_unmapped_iff {n : Nat} : registerAt n = .unmapped ↔ 26 ≤ n := by
  have hrows : registerFile[n]? = none ↔ 26 ≤ n := List.getElem?_eq_none_iff
  rw [registerAt, ← hrows]
  split <;> simp_all

/-- The three gaps of the map (R61, R65). -/
theorem targetOf_eq_unmapped_iff {a : Addr} (haligned : a.toNat % 4 = 0) : targetOf a = .unmapped ↔
    (0x000068 ≤ a.toNat ∧ a.toNat < 0x001000) ∨ (0x001804 ≤ a.toNat ∧ a.toNat < 0x040000) ∨ 0x140000 ≤ a.toNat := by
  rw [targetOf, if_neg (not_not.mpr haligned)]
  split
  · rw [registerAt_eq_unmapped_iff]
    omega
  · split_ifs <;> simp <;> omega

/-- An aligned address outside the gaps reaches a register or an entry. -/
theorem targetOf_mapped {a : Addr} (haligned : a.toNat % 4 = 0)
    (hmapped : a.toNat < 0x000068 ∨ (0x001000 ≤ a.toNat ∧ a.toNat < 0x001804) ∨
      (0x040000 ≤ a.toNat ∧ a.toNat < 0x140000)) :
    (∃ r, targetOf a = .register r) ∨ ∃ sp i, targetOf a = .entry sp i := by
  cases h : targetOf a with
  | misaligned => exact absurd haligned (targetOf_eq_misaligned_iff.mp h)
  | unmapped => have hgap := (targetOf_eq_unmapped_iff haligned).mp h; omega
  | register r => exact .inl ⟨r, rfl⟩
  | entry sp i => exact .inr ⟨sp, i, rfl⟩

/-- Settles O12: such an address is misaligned or in a gap of the map, which both transactions judge first. -/
theorem misalignedAndUnmappedAccesses : Obligations.MisalignedAndUnmappedAccesses := by
  intro a d s h
  have htarget : targetOf a = .misaligned ∨ targetOf a = .unmapped := by
    by_cases haligned : a.toNat % 4 = 0
    · exact .inr ((targetOf_eq_unmapped_iff haligned).mpr (h.resolve_left (not_not.mpr haligned)))
    · exact .inl (targetOf_eq_misaligned_iff.mpr haligned)
  obtain htarget | htarget := htarget <;> exact ⟨by rw [busRead, htarget]; rfl, by rw [busWrite, htarget]; rfl⟩

/-- Settles O13: the rows of R22 and the five ranges of entries. -/
theorem addressMap : Obligations.AddressMap :=
  ⟨fun _ _ h => targetOf_registerFile h, fun _ hk => targetOf_entry (sp := .specmem) (Nat.lt_succ_of_le hk),
    fun _ hi => ⟨targetOf_entry (sp := .smpmem) hi, targetOf_entry (sp := .txmem) hi,
      targetOf_entry (sp := .rxmem) hi, targetOf_entry (sp := .frmmem) hi⟩⟩

/-! ### The busy gate -/

theorem busWrite_of_busy {a : Addr} {s : State} (hbusy : s.status.busy = true) (d : Word)
    (hmapped : (∃ r, targetOf a = .register r) ∨ ∃ sp i, targetOf a = .entry sp i) : busWrite a d s = s.raiseBusy := by
  obtain ⟨r, h⟩ | ⟨sp, i, h⟩ := hmapped <;> simp only [busWrite, h, hbusy, if_true]

theorem busRead_of_busy {a : Addr} {s : State} (hbusy : s.status.busy = true)
    (hmapped : (∃ r, targetOf a = .register r ∧ servedWhileBusy r = false) ∨ ∃ sp i, targetOf a = .entry sp i) :
    busRead a s = gatedRead s := by
  obtain ⟨r, h, hgated⟩ | ⟨sp, i, h⟩ := hmapped
  · simp [busRead, h, hgated, hbusy]
  · simp [busRead, h, hbusy]

/-- The registers served with BUSY = 1 stand at 0x00, 0x04 and 0x0C (R22, R62 step 3). -/
theorem servedWhileBusy_eq_false {a : Addr} {r : Reg} (h : targetOf a = .register r) (hid : a ≠ 0x00)
    (hcap : a ≠ 0x04) (hstatus : a ≠ 0x0C) : servedWhileBusy r = false := by
  cases r with
  | id => exact absurd (addr_eq_of_targetOf_register (n := 0) rfl h) hid
  | cap => exact absurd (addr_eq_of_targetOf_register (n := 1) rfl h) hcap
  | status => exact absurd (addr_eq_of_targetOf_register (n := 3) rfl h) hstatus
  | _ => rfl

/-- Settles O14: the gate stands before every mapped word but the three registers a read is always served. -/
theorem busyGate : Obligations.BusyGate := by
  intro a d s hbusy haligned hrange
  have hmapped := targetOf_mapped haligned hrange
  refine ⟨busWrite_of_busy hbusy d hmapped, fun hid hcap hstatus => ?gated, ?id, ?cap, ?status⟩
  case gated =>
    exact busRead_of_busy hbusy
      (hmapped.imp_left fun ⟨r, hr⟩ => ⟨r, hr, servedWhileBusy_eq_false hr hid hcap hstatus⟩)
  case id => rintro rfl; exact busRead_served (r := .id) s (by decide) rfl
  case cap => rintro rfl; exact busRead_served (r := .cap) s (by decide) rfl
  case status => rintro rfl; exact busRead_served (r := .status) s (by decide) rfl

/-- Settles O8: an idle write to CMD is the acceptance; a busy one meets the gate. -/
theorem commandAcceptance : Obligations.CommandAcceptance := by
  refine fun c s => ⟨fun hidle => ⟨?write, ?read⟩, fun hbusy => ?gated⟩
  case write => exact busWrite_register_of_idle (r := .cmd) c (by decide) hidle
  case read => rw [busRead_register_of_idle (r := .cmd) (by decide) hidle]; rfl
  case gated => exact busWrite_of_busy hbusy c (.inl ⟨.cmd, by decide⟩)

end Sys2Proof.Machine
end

section
/-! PROOFS. What an idle host writes (spec/20_memory.md R63, R67 to R69). -/

namespace Sys2Proof.Machine

theorem busWrite_entry_of_idle {sp : Space} {i : Nat} {s : State} (d : Word) (hidle : s.status.busy = false)
    (hi : i < depthOf sp) : busWrite (BitVec.ofNat 21 (baseOf sp + 4 * i)) d s = writeEntry d s sp i := by
  simp [busWrite, targetOf_entry hi, hidle]

/-! ### The checked writes -/

/-- A word is the sign extension of its low half exactly when bits 31:15 are all alike (R68). -/
theorem eq_signExtend_iff (d : Word) : d = (d.setWidth 16).signExtend 32 ↔
    d.extractLsb' 15 17 = 0 ∨ d.extractLsb' 15 17 = BitVec.allOnes 17 := by
  have hlt := d.isLt
  have hhigh : (d.extractLsb' 15 17).toNat = d.toNat / 2 ^ 15 := by
    rw [BitVec.extractLsb'_toNat, Nat.shiftRight_eq_div_pow]
    omega
  have hextend : ((d.setWidth 16).signExtend 32).toNat =
      d.toNat % 2 ^ 16 + if 2 ^ 15 ≤ d.toNat % 2 ^ 16 then 2 ^ 32 - 2 ^ 16 else 0 := by
    rw [BitVec.toNat_signExtend, BitVec.msb_eq_decide, BitVec.toNat_setWidth, BitVec.toNat_setWidth]
    simp only [decide_eq_true_eq, Nat.reduceSub]
    omega
  rw [← BitVec.toNat_inj, ← BitVec.toNat_inj, ← BitVec.toNat_inj, hhigh, hextend, BitVec.toNat_allOnes]
  change _ ↔ d.toNat / 2 ^ 15 = 0 ∨ _
  split <;> omega

/-- Settles O15: SMPMEM stores the low half of a word that is its sign extension and refuses any other. -/
theorem sampleWriteIsChecked : Obligations.SampleWriteIsChecked := by
  intro s i d hidle hi
  have hwrite := busWrite_entry_of_idle (sp := .smpmem) d hidle hi
  refine ⟨eq_signExtend_iff d, fun hd => ⟨Memory.write s.smpmem i (d.setWidth 16), ?stored,
    Memory.read_write_same .., fun k hk => Memory.read_write_other _ _ hk⟩, fun hd => ?refused⟩
  case stored => exact hwrite.trans (if_pos hd.symm)
  case refused => exact hwrite.trans (if_neg (Ne.symm hd))

/-- Settles O16: TXMEM stores bit 0 of the words 0 and 1 and refuses any other. -/
theorem bitWriteIsChecked : Obligations.BitWriteIsChecked := by
  intro s i d hidle hi
  have hwrite := busWrite_entry_of_idle (sp := .txmem) d hidle hi
  refine ⟨fun hd => ⟨Memory.write s.txmem i (d.setWidth 1), ?stored,
    Memory.read_write_same .., fun k hk => Memory.read_write_other _ _ hk⟩, fun hd => ?refused⟩
  case stored => exact hwrite.trans (if_pos hd)
  case refused => exact hwrite.trans (if_neg hd)

/-! ### The plain writes -/

theorem setWidth_four_eq_extractLsb' (d : Word) : d.setWidth 4 = d.extractLsb' 0 4 := by
  apply BitVec.eq_of_toNat_eq
  rw [BitVec.toNat_setWidth, BitVec.extractLsb'_toNat, Nat.shiftRight_zero]

/-- WLOG2 reads its four stored bits (R32). -/
theorem setWidth_setWidth_four (d : Word) : (d.setWidth 4).setWidth 32 = d &&& 0xF := by
  apply BitVec.eq_of_toNat_eq
  have hmask : (d &&& 0xF).toNat = d.toNat % 2 ^ 4 := (BitVec.toNat_and ..).trans (Nat.and_two_pow_sub_one_eq_mod _ 4)
  rw [hmask, BitVec.toNat_setWidth, BitVec.toNat_setWidth]
  omega

/-- CTRL reads its two stored bits (R29). -/
theorem Ctrl.word_of_bits (d : Word) : Ctrl.word ⟨d.getLsbD 0, d.getLsbD 1⟩ = d &&& 0x3 := by
  apply BitVec.eq_of_toNat_eq
  have hmask : (d &&& 0x3).toNat = d.toNat % 2 ^ 2 := (BitVec.toNat_and ..).trans (Nat.and_two_pow_sub_one_eq_mod _ 2)
  rw [hmask, Ctrl.word, BitVec.toNat_ofNat]
  simp only [flagBits, BitVec.getLsbD, Nat.toNat_testBit]
  omega

/-- The parameter registers that implement all 32 bits (R30, R31, R32, R34, R35). -/
def wordRegisters : List Reg := [.fcenter, .fdev, .fmargin, .spb, .hop, .mthresh, .slen, .nfrm]

/-- The registers a write leaves alone (R22). -/
def readOnlyRegisters : List Reg :=
  [.id, .cap, .cfgcause, .f0, .f1, .phase, .toff, .peak, .peakmag, .freq, .nbits, .errcnt, .errpos]

/-- The addresses of rows of R22 that hold only registers listed reach only those. -/
theorem exists_register_of_mem_rows {rows : List Nat} {rs : List Reg} {a : Addr}
    (hrows : ∀ n ∈ rows, ∃ r ∈ rs, registerFile[n]? = some r) (ha : a ∈ rows.map fun n => BitVec.ofNat 21 (4 * n)) :
    ∃ r ∈ rs, targetOf a = .register r := by
  obtain ⟨n, hn, rfl⟩ := List.mem_map.mp ha
  obtain ⟨r, hr, hrow⟩ := hrows n hn
  exact ⟨r, hr, targetOf_registerFile hrow⟩

theorem writeRegister_readOnly (d : Word) (s : State) {r : Reg} (hr : r ∈ readOnlyRegisters) :
    writeRegister d s r = s := by
  fin_cases hr <;> rfl

/-- Of the writes to a register those to CMD and STATUS alone touch STATUS. -/
theorem writeRegister_status (d : Word) (s : State) {r : Reg} (hcmd : r ≠ .cmd) (hstatus : r ≠ .status) :
    (writeRegister d s r).status = s.status := by
  cases r with
  | cmd => exact absurd rfl hcmd
  | status => exact absurd rfl hstatus
  | _ => rfl

/-- What an idle host reads from a register it has just written. -/
theorem rdata_busRead_busWrite {a : Addr} {r : Reg} {s : State} (d : Word) (haddr : targetOf a = .register r)
    (hidle : s.status.busy = false) (hcmd : r ≠ .cmd) (hstatus : r ≠ .status) :
    (busRead a (busWrite a d s)).rdata = some (readRegister (writeRegister d s r) r) := by
  have hstill : (writeRegister d s r).status.busy = false := by rw [writeRegister_status d s hcmd hstatus, hidle]
  rw [busWrite_register_of_idle d haddr hidle, busRead_register_of_idle haddr hstill, State.answer_rdata]

theorem rdata_busRead_busWrite_word {a : Addr} {r : Reg} {s : State} (d : Word) (haddr : targetOf a = .register r)
    (hidle : s.status.busy = false) (hr : r ∈ wordRegisters) : (busRead a (busWrite a d s)).rdata = some d := by
  have hread : readRegister (writeRegister d s r) r = d := by fin_cases hr <;> rfl
  have hneither : ∀ r ∈ wordRegisters, r ≠ .cmd ∧ r ≠ .status := by decide
  obtain ⟨hcmd, hstatus⟩ := hneither r hr
  rw [rdata_busRead_busWrite d haddr hidle hcmd hstatus, hread]

theorem rdata_busRead_entry {sp : Space} {i : Nat} {s : State} {v : Word} (hidle : s.status.busy = false)
    (hi : i < depthOf sp) (hv : readEntry s sp i = some v) :
    (busRead (BitVec.ofNat 21 (baseOf sp + 4 * i)) s).rdata = some v := by
  rw [busRead_entry_of_idle hidle hi, hv]
  rfl

/-- Settles O17: a write to row `n` of R22 is `writeRegister` on its register, a write to an entry is `writeEntry`, and
the host is still idle to read back. -/
theorem plainWrites : Obligations.PlainWrites := by
  intro s d hidle
  have hwrite : ∀ {n r}, registerFile[n]? = some r → busWrite (BitVec.ofNat 21 (4 * n)) d s = writeRegister d s r :=
    fun hrow => busWrite_register_of_idle d (targetOf_registerFile hrow) hidle
  refine ⟨⟨hwrite (n := 7) rfl, hwrite (n := 8) rfl, hwrite (n := 9) rfl, hwrite (n := 10) rfl, hwrite (n := 12) rfl,
    hwrite (n := 13) rfl, hwrite (n := 14) rfl, hwrite (n := 15) rfl, hwrite (n := 6) rfl, ?wlog2⟩, ?words, ?ctrlRead,
    ?wlog2Read, fun k hk => ?specmem, fun j hj => ?frmmem, ?readOnly, fun i hi => ?rxmem, hwrite (n := 3) rfl⟩
  case wlog2 => rw [← setWidth_four_eq_extractLsb']; exact hwrite (n := 11) rfl
  case words =>
    intro a ha
    obtain ⟨r, hr, haddr⟩ := exists_register_of_mem_rows (rows := [7, 8, 9, 10, 12, 13, 14, 15]) (rs := wordRegisters)
      (by decide) ha
    exact rdata_busRead_busWrite_word d haddr hidle hr
  case ctrlRead =>
    rw [rdata_busRead_busWrite (r := .ctrl) d (by decide) hidle (by decide) (by decide), ← Ctrl.word_of_bits]
    rfl
  case wlog2Read =>
    rw [rdata_busRead_busWrite (r := .wlog2) d (by decide) hidle (by decide) (by decide), ← setWidth_setWidth_four]
    rfl
  case specmem =>
    have hk' : k < depthOf .specmem := Nat.lt_succ_of_le hk
    refine ⟨Memory.write s.specmem k d, busWrite_entry_of_idle (sp := .specmem) d hidle hk', Memory.read_write_same ..,
      fun l hl => Memory.read_write_other _ _ hl, ?_⟩
    exact rdata_busRead_entry (sp := .specmem) hidle hk' (Memory.read_write_same ..)
  case frmmem =>
    refine ⟨Memory.write s.frmmem j d, busWrite_entry_of_idle (sp := .frmmem) d hidle hj, Memory.read_write_same ..,
      fun l hl => Memory.read_write_other _ _ hl, ?_⟩
    exact rdata_busRead_entry (sp := .frmmem) hidle hj (Memory.read_write_same ..)
  case readOnly =>
    intro a ha
    obtain ⟨r, hr, haddr⟩ := exists_register_of_mem_rows (rows := [0, 1, 4, 16, 17, 18, 19, 20, 21, 22, 23, 24, 25])
      (rs := readOnlyRegisters) (by decide) ha
    rw [busWrite_register_of_idle d haddr hidle, writeRegister_readOnly d s hr]
  case rxmem => exact busWrite_entry_of_idle (sp := .rxmem) d hidle hi

end Sys2Proof.Machine
end

section
/-! PROOFS. Command words and their fields (spec/30_encoding.md R90 to R92): which words decode to a command. -/

namespace Sys2Proof.Machine

/-! ### A word is its two fields -/

theorem toNat_opcOf (c : Word) : (opcOf c).toNat = c.toNat / 2 ^ 24 := by
  rw [opcOf, BitVec.extractLsb'_toNat, Nat.shiftRight_eq_div_pow]
  have := c.isLt
  omega

theorem toNat_argOf (c : Word) : (argOf c).toNat = c.toNat % 2 ^ 24 := by
  rw [argOf, BitVec.extractLsb'_toNat, Nat.shiftRight_zero]

/-- OPC and ARG cover the word (R90). -/
theorem word_eq_iff {c d : Word} : c = d ↔ opcOf c = opcOf d ∧ argOf c = argOf d := by
  simp only [← BitVec.toNat_inj, toNat_opcOf, toNat_argOf]
  omega

theorem opcOf_encode (i : Instr) : opcOf (encode i) = opcode i :=
  (Laws.FieldsOfWord.fields (opcode i) (operandField i)).1

theorem argOf_encode (i : Instr) : argOf (encode i) = operandField i :=
  (Laws.FieldsOfWord.fields (opcode i) (operandField i)).2

theorem encode_eq_iff {i : Instr} {c : Word} : encode i = c ↔ opcOf c = opcode i ∧ argOf c = operandField i := by
  rw [word_eq_iff, opcOf_encode, argOf_encode, eq_comm, @eq_comm _ (operandField i)]

/-! ### What decodes -/

theorem bare_eq_cmd_iff {i : Instr} {c : Word} : bare i c = .cmd i ↔ argOf c = 0 := by
  rw [bare]
  split <;> simp_all

/-- An operand is ARG exactly when it fits ARG and its field is ARG (R92). -/
theorem toNat_argOf_eq_iff {c : Word} {n : Nat} :
    (argOf c).toNat = n ↔ n < 2 ^ 24 ∧ argOf c = BitVec.ofNat 24 n := by
  rw [← BitVec.toNat_inj, BitVec.toNat_ofNat]
  have := (argOf c).isLt
  omega

/-- Under the command's OPC the opcode map leaves the operand to be judged (R91). -/
theorem decode_eq_cmd_iff_of_opcOf {c : Word} {i : Instr} (hopc : opcOf c = opcode i) :
    decode c = .cmd i ↔ i.wf = true ∧ argOf c = operandField i := by
  have hbare (h : decode c = bare i c) (hwf : i.wf = true) (hfield : operandField i = 0) :
      decode c = .cmd i ↔ i.wf = true ∧ argOf c = operandField i := by
    rw [h, bare_eq_cmd_iff, hfield, and_iff_right hwf]
  cases i with
  | mod n =>
    rw [decode, hopc, Instr.wf, decide_eq_true_iff, operandField, ← toNat_argOf_eq_iff]
    simp [opcode]
  | xfrm j =>
    rw [decode, hopc, Instr.wf, decide_eq_true_iff, operandField, ← toNat_argOf_eq_iff]
    simp [opcode]
  | _ => exact hbare (by rw [decode, hopc]; rfl) rfl rfl

/-- The decoder's words are the encoder's, of well-formed commands alone (R90 to R92). -/
theorem decode_eq_cmd_iff {c : Word} {i : Instr} : decode c = .cmd i ↔ i.wf = true ∧ encode i = c := by
  rw [encode_eq_iff]
  constructor
  · intro h
    have hopc := opcOf_of_decode h
    obtain ⟨hwf, harg⟩ := (decode_eq_cmd_iff_of_opcOf hopc).mp h
    exact ⟨hwf, hopc, harg⟩
  · rintro ⟨hwf, hopc, harg⟩
    exact (decode_eq_cmd_iff_of_opcOf hopc).mpr ⟨hwf, harg⟩

/-! ### The round trips -/

/-- Settles O1: the fields of a command's word are its OPC and its operand, which the opcode map reads back. -/
theorem decodeEncodeRoundTrip : Obligations.DecodeEncodeRoundTrip :=
  fun _ hwf => decode_eq_cmd_iff.mpr ⟨hwf, rfl⟩

/-- Settles O2: a command's OPC and operand are the whole of its word. -/
theorem encodeDecodeRoundTrip : Obligations.EncodeDecodeRoundTrip :=
  fun _ _ h => decode_eq_cmd_iff.mp h

/-- Settles O5: the opcode map evaluated on closed words. -/
theorem wordsOfTheSpecDecode : Obligations.WordsOfTheSpecDecode := by
  unfold Obligations.WordsOfTheSpecDecode
  decide

end Sys2Proof.Machine
end

section
/-! PROOFS. Decoding as match and mask, and the illegal words (spec/30_encoding.md R93, R94). -/

namespace Sys2Proof.Machine

/-! ### Match and mask -/

/-- A full mask compares the whole word. -/
theorem decode_eq_cmd_iff_and_allOnes {i : Instr} (hwf : i.wf = true) (c : Word) :
    decode c = .cmd i ↔ c &&& 0xFFFFFFFF = encode i := by
  have hmask : c &&& 0xFFFFFFFF = c := BitVec.and_allOnes
  rw [hmask, decode_eq_cmd_iff, and_iff_right hwf, eq_comm]

/-- A mask is applied field by field. -/
theorem and_eq_iff {c mask pattern : Word} : c &&& mask = pattern ↔
    opcOf c &&& opcOf mask = opcOf pattern ∧ argOf c &&& argOf mask = argOf pattern := by
  rw [word_eq_iff, opcOf, argOf, BitVec.extractLsb'_and, BitVec.extractLsb'_and]
  rfl

/-- A mask of OPC alone compares OPC. -/
theorem opcOf_eq_iff_and_opcMask {c pattern : Word} {opc : BitVec 8} (hopc : opcOf pattern = opc)
    (harg : argOf pattern = 0) : opcOf c = opc ↔ c &&& 0xFF000000 = pattern := by
  have hopcMask : opcOf c &&& opcOf 0xFF000000 = opcOf c := BitVec.and_allOnes
  have hargMask : argOf c &&& argOf 0xFF000000 = 0 := BitVec.and_zero
  rw [and_eq_iff, hopcMask, hargMask, hopc, harg, and_iff_left rfl]

theorem decode_mod_iff {c : Word} : (∃ n, decode c = .cmd (.mod n)) ↔ opcOf c = 0x02 := by
  refine ⟨fun ⟨_, h⟩ => opcOf_of_decode h, fun hopc => ⟨(argOf c).toNat, ?_⟩⟩
  rw [decode, hopc]
  rfl

theorem decode_xfrm_iff {c : Word} : (∃ j, decode c = .cmd (.xfrm j)) ↔ opcOf c = 0x03 := by
  refine ⟨fun ⟨_, h⟩ => opcOf_of_decode h, fun hopc => ⟨(argOf c).toNat, ?_⟩⟩
  rw [decode, hopc]
  rfl

/-- The eight commands, one by one (R91). -/
theorem exists_instr_iff {P : Instr → Prop} : (∃ i, P i) ↔ P .nop ∨ P .check ∨ (∃ n, P (.mod n)) ∨
    (∃ j, P (.xfrm j)) ∨ P .xtrc ∨ P .anlz ∨ P .dec ∨ P .demod := by
  constructor
  · rintro ⟨i, h⟩
    cases i with
    | mod n => exact .inr (.inr (.inl ⟨n, h⟩))
    | xfrm j => exact .inr (.inr (.inr (.inl ⟨j, h⟩)))
    | _ => simp only [h, true_or, or_true]
  · rintro (h | h | ⟨_, h⟩ | ⟨_, h⟩ | h | h | h | h) <;> exact ⟨_, h⟩

/-- Every word is a command or illegal (R93). -/
theorem exists_illegal_iff {c : Word} : (∃ why, decode c = .illegal why) ↔ ¬∃ i, decode c = .cmd i := by
  cases decode c <;> simp

/-- The rows of R94, command by command. -/
theorem decode_iff_row (c : Word) :
    (decode c = .cmd .nop ↔ c &&& 0xFFFFFFFF = 0x00000000) ∧
    (decode c = .cmd .check ↔ c &&& 0xFFFFFFFF = 0x01000000) ∧
    ((∃ n, decode c = .cmd (.mod n)) ↔ c &&& 0xFF000000 = 0x02000000) ∧
    ((∃ j, decode c = .cmd (.xfrm j)) ↔ c &&& 0xFF000000 = 0x03000000) ∧
    (decode c = .cmd .xtrc ↔ c &&& 0xFFFFFFFF = 0x04000000) ∧
    (decode c = .cmd .anlz ↔ c &&& 0xFFFFFFFF = 0x05000000) ∧
    (decode c = .cmd .dec ↔ c &&& 0xFFFFFFFF = 0x06000000) ∧
    (decode c = .cmd .demod ↔ c &&& 0xFFFFFFFF = 0x07000000) :=
  ⟨decode_eq_cmd_iff_and_allOnes rfl c, decode_eq_cmd_iff_and_allOnes rfl c,
    decode_mod_iff.trans (opcOf_eq_iff_and_opcMask rfl rfl), decode_xfrm_iff.trans (opcOf_eq_iff_and_opcMask rfl rfl),
    decode_eq_cmd_iff_and_allOnes rfl c, decode_eq_cmd_iff_and_allOnes rfl c, decode_eq_cmd_iff_and_allOnes rfl c,
    decode_eq_cmd_iff_and_allOnes rfl c⟩

theorem exists_cmd_iff_exists_hits {c : Word} :
    (∃ i, decode c = .cmd i) ↔ ∃ r ∈ matchTable, r.hits c = true := by
  obtain ⟨hnop, hcheck, hmod, hxfrm, hxtrc, hanlz, hdec, hdemod⟩ := decode_iff_row c
  rw [exists_instr_iff, hnop, hcheck, hmod, hxfrm, hxtrc, hanlz, hdec, hdemod]
  simp [matchTable, MatchRow.hits]

/-- Every mask covers OPC, so a row is hit only by words of its own OPC. -/
theorem opcOf_of_hits {r : MatchRow} (hr : r ∈ matchTable) {c : Word} (h : r.hits c = true) :
    opcOf c = opcOf r.pattern := by
  have hmask : ∀ r ∈ matchTable, opcOf r.mask = BitVec.allOnes 8 := by decide
  have hopc : opcOf c &&& opcOf r.mask = opcOf r.pattern := (and_eq_iff.mp (beq_iff_eq.mp h)).1
  rwa [hmask r hr, BitVec.and_allOnes] at hopc

/-- No two rows of R94 have the same OPC. -/
theorem matchTable_pairwise_opcOf_ne : matchTable.Pairwise fun a b => opcOf a.pattern ≠ opcOf b.pattern := by
  decide

/-- Settles O3: the rows are the commands, and the rows' OPCs differ. -/
theorem decodeIsMatchAndMask : Obligations.DecodeIsMatchAndMask := by
  refine ⟨fun c => ?rows, matchTable_pairwise_opcOf_ne.imp_of_mem ?overlap⟩
  case rows =>
    obtain ⟨hnop, hcheck, hmod, hxfrm, hxtrc, hanlz, hdec, hdemod⟩ := decode_iff_row c
    refine ⟨hnop, hcheck, hmod, hxfrm, hxtrc, hanlz, hdec, hdemod, ?_⟩
    rw [exists_illegal_iff, exists_cmd_iff_exists_hits]
    simp only [not_exists, not_and, Bool.not_eq_true]
  case overlap =>
    exact fun ha hb hne c ⟨hhitA, hhitB⟩ => hne ((opcOf_of_hits ha hhitA).symm.trans (opcOf_of_hits hb hhitB))

/-! ### Illegal words -/

/-- The words of R93 by number: a reserved OPC, or an ARG that must be 0 and is not. -/
theorem exists_illegal_iff_toNat {c : Word} : (∃ why, decode c = .illegal why) ↔
    8 ≤ c.toNat / 2 ^ 24 ∨ (c.toNat / 2 ^ 24 ∈ [0, 1, 4, 5, 6, 7] ∧ c.toNat % 2 ^ 24 ≠ 0) := by
  have hopc (k : BitVec 8) : opcOf c = k ↔ c.toNat / 2 ^ 24 = k.toNat := by
    rw [← BitVec.toNat_inj, toNat_opcOf]
  have harg : argOf c = 0 ↔ c.toNat % 2 ^ 24 = 0 := by
    rw [← BitVec.toNat_inj, toNat_argOf]
    rfl
  have hbare {i : Instr} (hwf : i.wf = true) (hfield : operandField i = 0) : decode c = .cmd i ↔
      c.toNat / 2 ^ 24 = (opcode i).toNat ∧ c.toNat % 2 ^ 24 = 0 := by
    rw [decode_eq_cmd_iff, and_iff_right hwf, encode_eq_iff, hfield, hopc, harg]
  rw [exists_illegal_iff, exists_instr_iff, decode_mod_iff, decode_xfrm_iff, hopc, hopc, hbare rfl rfl, hbare rfl rfl,
    hbare rfl rfl, hbare rfl rfl, hbare rfl rfl, hbare rfl rfl]
  simp only [opcode, BitVec.reduceToNat, List.mem_cons, List.not_mem_nil, or_false]
  omega

/-- CORE's turn ends a pending illegal word (R93, R191 stage 1). -/
theorem coreTurn_of_illegal {s : State} {why : Illegal} (hbusy : s.status.busy = true)
    (hillegal : decode s.cmdlatch = .illegal why) : coreTurn s = .next (s.complete .command false) := by
  simp only [coreTurn, hbusy, hillegal, if_true]
  rfl

/-- Settles O4: no command has the word, acceptance does not decode, and completion writes CMDERR. -/
theorem illegalWordsRaiseCommandError : Obligations.IllegalWordsRaiseCommandError := by
  refine fun c => ⟨exists_illegal_iff_toNat, ?total, fun s hidle => ?accepted, ?raised⟩
  case total =>
    rw [exists_illegal_iff]
    exact (em _).symm
  case accepted => exact (commandAcceptance c s).1 hidle |>.1
  case raised =>
    rintro s why hillegal hbusy rfl
    rw [coreTurn_of_illegal hbusy hillegal, State.complete_eq_update]
    simp [Raised.isConfiguration, Raised.isCommand, Raised.causes]

end Sys2Proof.Machine
end

section
/-! PROOFS. When MOD's body runs, and its completion (spec/40_modulator.md R111, spec/44_control.md R192, R193). -/

namespace Sys2Proof.Machine

open Sys2Proof.Safety

/-! ### The causes MOD checks -/

/-- No cause of R111 holds. -/
def ModLegal (n : Nat) (s : State) : Prop :=
  TonesLegal s ∧ s.spb.toNat ≠ 0 ∧ n ≤ 65536 ∧ n * s.spb.toNat ≤ 65536

section Causes

variable (n : Nat) (s : State)

/-- The six causes of R111 are the predicates of the registers, the others are masked off. -/
theorem heldCauses_mod : heldCauses (.mod n) s = { Causes.none with
    fc0 := decide (s.fcenter.toNat = 0)
    fd0 := decide (s.fdev.toNat = 0)
    fdge := decide (s.fcenter.toNat ≤ s.fdev.toNat)
    nyq := decide (2 ^ 31 ≤ s.fcenter.toNat + s.fdev.toNat)
    spb0 := decide (s.spb.toNat = 0)
    cap := decide (65536 < n ∨ 65536 < n * s.spb.toNat) } := by
  simp only [heldCauses, Causes.inter, cfgCauses, relevantSet, Causes.none, Bool.and_true, Bool.and_false]
  rfl

theorem heldCauses_mod_eq_none_iff : heldCauses (.mod n) s = Causes.none ↔ ModLegal n s := by
  rw [heldCauses_mod]
  simp only [Causes.none, Causes.mk.injEq, decide_eq_false_iff_not, true_and, ModLegal, TonesLegal]
  omega

theorem judge_mod_eq_nothing_iff : judge (.mod n) s = .nothing ↔ ModLegal n s := by
  rw [judge_nothing_iff, heldCauses_mod_eq_none_iff]
  exact and_iff_left rfl

end Causes

/-! ### How a command ends -/

theorem exec_of_causes {i : Instr} {s : State} (h : heldCauses i s ≠ Causes.none) :
    exec i s = .next (s.complete (.configuration (heldCauses i s)) false) := by
  rw [exec_eq_runCommand]
  exact runCommand_of_configuration (judge_of_causes h)

/-- A completion with nothing raised leaves ESTICKY as it was (R196). -/
theorem State.complete_nothing (s : State) : s.complete .nothing false =
    { s with status := completed s.status false, cfgcause := Causes.none } := by
  simp only [State.complete, Raised.isConfiguration, Raised.isCommand, Raised.causes, Bool.or_false, completed]

theorem exec_mod_of_ok {n : Nat} {s u : State} (hlegal : ModLegal n s) (hbody : modBody n s = .ok u) :
    exec (.mod n) s = .next { u with status := completed u.status false, cfgcause := Causes.none } := by
  rw [exec_eq_runCommand, ← u.complete_nothing]
  exact runCommand_of_ok ((judge_mod_eq_nothing_iff n s).mpr hlegal) hbody

/-- A MOD that answers with CFGERR = 0 ran its body. -/
theorem modBody_of_exec {n : Nat} {s t : State} (h : exec (.mod n) s = .next t) (herr : t.status.cfgErr = false) :
    ModLegal n s ∧ ∃ u, modBody n s = .ok u ∧ t = u.complete .nothing false := by
  rw [exec_eq_runCommand] at h
  obtain ⟨hjudge, u, hbody, rfl⟩ | ⟨c, -, rfl⟩ | ⟨hjudge, rfl⟩ := runCommand_next h
  · exact ⟨(judge_mod_eq_nothing_iff n s).mp hjudge, u, hbody, rfl⟩
  · cases herr
  · cases (judge_command hjudge).2

/-! ### The statements -/

/-- Settles O28: the causes held are MOD's six, and a command with a cause held only completes. -/
theorem modChecksBeforeAnySample : Obligations.ModChecksBeforeAnySample := by
  intro n s hillegal
  refine ⟨_, exec_of_causes (mt (heldCauses_mod_eq_none_iff n s).mp hillegal), s.complete_eq_update _ _, rfl, ?_⟩
  simp only [State.complete_cfgcause, Raised.causes, heldCauses_mod, Causes.none, decide_eq_true_eq, ge_iff_le,
    gt_iff_lt, and_self]

/-- Settles O31: the body stores `n × SPB` in SLEN, which the checks keep below `2^32`. -/
theorem modPreservesLength : Obligations.ModPreservesLength := by
  intro n s t h herr
  obtain ⟨⟨-, -, -, hfits⟩, u, hbody, rfl⟩ := modBody_of_exec h herr
  obtain ⟨bits, -, rfl⟩ := modBody_ok hbody
  exact (BitVec.toNat_ofNat ..).trans (Nat.mod_eq_of_lt (by omega))

end Sys2Proof.Machine
end

section
/-! PROOFS. The samples of MOD (spec/40_modulator.md R112 to R116): the phase recurrence in closed indices, and the body
on a written message. -/

namespace Sys2Proof.Machine

open Sys2Proof.Safety

/-! ### One sample -/

theorem sampleOf_eq (p : Word) : sampleOf p = BitVec.ofInt 16 (sinRom (p.toNat / 2 ^ 22)) := by
  have hindex : (p.extractLsb' 22 10).toNat = p.toNat / 2 ^ 22 := by
    rw [BitVec.extractLsb'_toNat, Nat.shiftRight_eq_div_pow, Nat.mod_eq_of_lt (by have := p.isLt; omega)]
  rw [sampleOf, hindex]

/-- Settles O32: a ROM entry fits 16 bits. -/
theorem sampleIsRomEntry : Obligations.SampleIsRomEntry := by
  intro p
  obtain ⟨hlo, hhi⟩ := abs_lt.mp (abs_sinRom_lt (i := p.toNat / 2 ^ 22) (by have := p.isLt; omega))
  have hlossless : (sampleOf p).toInt = sinRom (p.toNat / 2 ^ 22) := by
    rw [sampleOf_eq, BitVec.toInt_ofInt_eq_self (by decide) (by omega) (by omega)]
  rw [hlossless]
  omega

/-! ### The recurrence -/

section Recurrence

variable (tone : Nat → Word) (spb : Nat)

/-- `count` samples of the signal, from number `start` on: sample `k` is that of the phase before it (R114, R115). -/
def samplesFrom (start count : Nat) : List (BitVec 16) :=
  (List.range' start count).map fun k => sampleOf (phaseBefore tone spb k)

@[simp] theorem length_samplesFrom (start count : Nat) : (samplesFrom tone spb start count).length = count := by
  simp [samplesFrom]

theorem samplesFrom_append (start count more : Nat) :
    samplesFrom tone spb start count ++ samplesFrom tone spb (start + count) more =
      samplesFrom tone spb start (count + more) := by
  rw [samplesFrom, samplesFrom, samplesFrom, ← List.map_append, List.range'_append_1]

/-- The samples stored in SMPMEM from entry 0 up (R115). -/
theorem read_store_samplesFrom_zero (m : Memory 16) {count k : Nat} (hk : k < count) :
    Memory.read (Memory.storeFromZero m (samplesFrom tone spb 0 count)) k =
      some (BitVec.ofInt 16 (sinRom ((phaseBefore tone spb k).toNat / 2 ^ 22))) := by
  rw [Memory.read_storeFromZero, length_samplesFrom, if_pos hk, ← sampleOf_eq]
  simp [samplesFrom, hk]

/-- Samples that belong to one bit advance the phase by one tone (R113). -/
theorem toneRun_eq_samplesFrom {f : Word} {count start : Nat}
    (htone : ∀ k, start ≤ k → k < start + count → tone (k / spb) = f) :
    toneRun f count (phaseBefore tone spb start) =
      (samplesFrom tone spb start count, phaseBefore tone spb (start + count)) := by
  induction count generalizing start with
  | zero => rfl
  | succ count ih =>
    have hnext : phaseBefore tone spb start + f = phaseBefore tone spb (start + 1) := by
      rw [phaseBefore, htone start le_rfl (by omega)]
    rw [toneRun, hnext, ih fun k hlo hhi => htone k (by omega) (by omega), Nat.add_right_comm]
    rfl

/-- The segments of bits `b` to `b + count - 1` are the samples from `b × SPB` on (R115). -/
theorem modulate_eq_samplesFrom (b count : Nat) :
    modulate spb ((List.range' b count).map tone) (phaseBefore tone spb (b * spb)) =
      (samplesFrom tone spb (b * spb) (count * spb), phaseBefore tone spb ((b + count) * spb)) := by
  induction count generalizing b with
  | zero => simp [modulate, samplesFrom]
  | succ count ih =>
    have hbit : ∀ k, b * spb ≤ k → k < b * spb + spb → tone (k / spb) = tone b := fun k hlo hhi =>
      congrArg tone (Nat.div_eq_of_lt_le hlo (by rwa [Nat.succ_mul]))
    rw [List.range'_succ, List.map_cons, modulate, toneRun_eq_samplesFrom tone spb hbit, ← Nat.succ_mul, ih,
      Nat.succ_mul, samplesFrom_append]
    simp only [Prod.mk.injEq]
    refine ⟨congrArg _ ?_, congrArg _ ?_⟩ <;> ring

end Recurrence

/-! ### The body -/

/-- The tone of bit `i` of the message in TXMEM (R112). -/
def bitTone (s : State) (i : Nat) : Word :=
  if Memory.read s.txmem i = some 1 then s.fcenter + s.fdev else s.fcenter - s.fdev

theorem map_toneWord_eq {s : State} {n : Nat} {bits : List (BitVec 1)} (h : fetchRun .txmem s.txmem 0 n = .ok bits) :
    bits.map (toneWord s) = (List.range' 0 n).map (bitTone s) := by
  obtain ⟨hlen, hread⟩ := fetchRun_ok h
  refine List.ext_getElem (by simp [hlen]) fun i hi hi' => ?_
  have hbit := hread i (by simpa using hi')
  rw [Nat.zero_add, List.getElem?_eq_getElem (by simpa using hi)] at hbit
  simp [bitTone, hbit, toneWord, toneOne, toneZero]

/-- MOD on a written message (R115). -/
theorem modBody_of_written {n : Nat} {s : State} (h : written s.txmem 0 n = true) : modBody n s = .ok { s with
    smpmem := Memory.storeFromZero s.smpmem (samplesFrom (bitTone s) s.spb.toNat 0 (n * s.spb.toNat))
    phase := phaseBefore (bitTone s) s.spb.toNat (n * s.spb.toNat)
    slen := BitVec.ofNat 32 (n * s.spb.toNat) } := by
  obtain ⟨bits, hbits⟩ := fetchRun_isOk (sp := .txmem) (written_iff.mp h)
  have hsignal := modulate_eq_samplesFrom (bitTone s) s.spb.toNat 0 n
  rw [Nat.zero_mul, Nat.zero_add, phaseBefore, ← map_toneWord_eq hbits] at hsignal
  simp only [modBody, hbits, hsignal]

theorem Memory.storeFromZero_nil {w : Nat} (m : Memory w) : Memory.storeFromZero m [] = m := by
  simp [Memory.storeFromZero, numbered, Memory.dropBelow]

/-! ### The statements -/

/-- Settles O29: the body stores the samples of the recurrence, and completion raises nothing. -/
theorem modSynthesises : Obligations.ModSynthesises := by
  intro n s htones hspb hn hfits hwritten tone
  refine ⟨_, exec_mod_of_ok ⟨htones, hspb, hn, hfits⟩ (modBody_of_written hwritten), rfl, fun k hk => ?below,
    fun k hk => ?above⟩
  case below => exact read_store_samplesFrom_zero _ _ _ hk
  case above => exact Memory.read_storeFromZero_of_le _ (by rwa [length_samplesFrom])

/-- Settles O30: no bit is read and no sample stored, and SPB = 0 is a cause whatever `n` is. -/
theorem modEmptyInput : Obligations.ModEmptyInput := by
  refine fun s => ⟨fun htones hspb => ?empty, fun hzero => ?checks⟩
  case empty =>
    rw [exec_mod_of_ok ⟨htones, hspb, by omega, by omega⟩ (modBody_of_written rfl)]
    simp [samplesFrom, phaseBefore, Memory.storeFromZero_nil]
  case checks =>
    obtain ⟨t, hexec, honly, herr, -, -, -, -, hspb0, -⟩ :=
      modChecksBeforeAnySample 0 s fun ⟨_, hspb, _⟩ => hspb hzero
    exact ⟨t, hexec, honly, herr, hspb0.mpr hzero⟩

end Sys2Proof.Machine
end

section
/-! PROOFS. Framing and what XFRM checks (spec/41_spectral_transform.md R131, R132). -/

namespace Sys2Proof.Machine

open Sys2Proof.Safety

/-! ### Frames -/

/-- A frame exists iff it lies wholly inside the buffer (R131). -/
theorem lt_frameCount_iff {s : State} (hhop : s.hop.toNat ≠ 0) {j : Nat} :
    j < frameCount s ↔ frameOffset s j + windowSize s ≤ s.slen.toNat := by
  refine ⟨frameOffset_add_le, fun hinside => ?_⟩
  have hquot : j ≤ (s.slen.toNat - windowSize s) / s.hop.toNat :=
    (Nat.le_div_iff_mul_le (Nat.pos_of_ne_zero hhop)).mpr (Nat.le_sub_of_add_le hinside)
  rw [frameCount, if_neg (by omega)]
  exact Nat.lt_succ_of_le hquot

/-- Settles O35: the two branches of the count, and what lies inside the buffer. -/
theorem framesAreWholeWindows : Obligations.FramesAreWholeWindows :=
  fun _ hhop => ⟨fun hshort => if_pos hshort, fun hlong => if_neg (Nat.not_lt.mpr hlong),
    fun _ => ⟨lt_frameCount_iff hhop, rfl, rfl⟩⟩

/-! ### The causes XFRM checks -/

/-- No cause of R132 holds. -/
def XfrmLegal (s : State) : Prop := WindowLegal s ∧ s.hop.toNat ≠ 0 ∧ s.slen.toNat ≤ 65536

section Causes

variable (j : Nat) (s : State)

/-- The three causes of R132 are predicates of the registers, the others are masked off. -/
theorem heldCauses_xfrm : heldCauses (.xfrm j) s = { Causes.none with
    wlog := decide (s.wlog2.toNat < 3 ∨ 10 < s.wlog2.toNat)
    hop0 := decide (s.hop.toNat = 0)
    cap := decide (65536 < s.slen.toNat) } := by
  simp only [heldCauses, Causes.inter, cfgCauses, relevantSet, Causes.none, Bool.and_true, Bool.and_false]
  rfl

theorem heldCauses_xfrm_eq_none_iff : heldCauses (.xfrm j) s = Causes.none ↔ XfrmLegal s := by
  rw [heldCauses_xfrm]
  simp only [Causes.none, Causes.mk.injEq, decide_eq_false_iff_not, true_and, XfrmLegal, WindowLegal]
  omega

end Causes

theorem judge_xfrm_eq_command {j : Nat} {s : State} (hlegal : XfrmLegal s) (hj : frameCount s ≤ j) :
    judge (.xfrm j) s = .command := by
  have hcauses := (Causes.any_eq_false_iff _).mpr ((heldCauses_xfrm_eq_none_iff j s).mpr hlegal)
  simp [judge, hcauses, operandIllegal, hj]

theorem judge_xfrm_eq_nothing {j : Nat} {s : State} (hlegal : XfrmLegal s) (hj : j < frameCount s) :
    judge (.xfrm j) s = .nothing :=
  judge_nothing_iff.mpr ⟨(heldCauses_xfrm_eq_none_iff j s).mpr hlegal, decide_eq_false (Nat.not_le.mpr hj)⟩

/-- Settles O36: the causes held are XFRM's three; past them only a frame that does not exist raises. -/
theorem xfrmChecksBeforeTransform : Obligations.XfrmChecksBeforeTransform := by
  refine fun j s => ⟨fun hillegal => ?configuration, fun hwindow hhop hfits houtside => ?command⟩
  case configuration =>
    refine ⟨_, exec_of_causes (mt (heldCauses_xfrm_eq_none_iff j s).mp hillegal), s.complete_eq_update _ _, rfl, rfl,
      ?_⟩
    simp only [State.complete_cfgcause, Raised.causes, heldCauses_xfrm, Causes.none, decide_eq_true_eq, gt_iff_lt,
      and_self]
  case command =>
    have hj : frameCount s ≤ j :=
      Nat.le_of_not_lt fun hlt => Nat.not_le.mpr houtside ((lt_frameCount_iff hhop).mp hlt)
    rw [exec_eq_runCommand, runCommand_of_command (judge_xfrm_eq_command ⟨hwindow, hhop, hfits⟩ hj),
      State.complete_eq_update]
    simp [Raised.isConfiguration, Raised.isCommand, Raised.causes]

end Sys2Proof.Machine
end

section
/-! PROOFS. The Hann window and the windowed samples (spec/41_spectral_transform.md R133, R134). -/

namespace Sys2Proof.Machine

/-! ### The floor shift (spec/00_scope.md R6)

A shift count written as an integer is the same count as a natural, for which the library has the division. -/

theorem shiftRight_intOne (x : Int) : x >>> (1 : Int) = x >>> (1 : Nat) := Int.shiftRight_natCast_right x 1

theorem shiftRight_intFifteen (x : Int) : x >>> (15 : Int) = x >>> (15 : Nat) := Int.shiftRight_natCast_right x 15

/-! ### The cosine -/

theorem abs_cosRom_lt (i : Nat) : |cosRom i| < 32768 := abs_sinRom_lt (Nat.mod_lt _ (by decide))

/-- Half a turn on, from any angle, the sine is negated (R50). -/
theorem sinRom_add_half_mod {i : Nat} (hi : i < 1024) : sinRom ((i + 512) % 1024) = -sinRom i := by
  by_cases hfirst : i < 512
  · rw [Nat.mod_eq_of_lt (by omega), sinRom_add_half hfirst]
  · obtain ⟨k, rfl⟩ : ∃ k, i = k + 512 := ⟨i - 512, by omega⟩
    rw [show (k + 512 + 512) % 1024 = k by omega, sinRom_add_half (by omega), neg_neg]

/-- The cosine is even (R50, R51). -/
theorem cosRom_full_sub {i : Nat} (hlo : 1 ≤ i) (hhi : i ≤ 1023) : cosRom (1024 - i) = cosRom i := by
  rw [cosRom, cosRom]
  by_cases hfirst : i ≤ 256
  · rw [show (1024 - i + 256) % 1024 = 512 - (i + 256) by omega, sinRom_half_sub (by omega),
      Nat.mod_eq_of_lt (show i + 256 < 1024 by omega)]
  · obtain ⟨k, rfl⟩ : ∃ k, i = k + 256 := ⟨i - 256, by omega⟩
    rw [show (1024 - (k + 256) + 256) % 1024 = 1024 - k by omega, sinRom_full_sub (by omega) (by omega),
      Nat.add_assoc, sinRom_add_half_mod (by omega)]

/-! ### The window -/

theorem hann_eq (m n : Nat) : hann m n = (32767 - cosRom (n * 2 ^ (10 - m))) / 2 := by
  simp only [hann, Config.romAmp, shiftRight_intOne]
  exact Int.shiftRight_eq_div_pow _ 1

theorem hann_nonneg (m n : Nat) : 0 ≤ hann m n := by
  have hcos := (abs_lt.mp (abs_cosRom_lt (n * 2 ^ (10 - m)))).2
  rw [hann_eq]
  omega

theorem hann_le (m n : Nat) : hann m n ≤ 32767 := by
  have hcos := (abs_lt.mp (abs_cosRom_lt (n * 2 ^ (10 - m)))).1
  rw [hann_eq]
  omega

/-- The `2^m` places of a window share out the 1024 angles of the ROM. -/
theorem window_mul_step {m : Nat} (hm : m ≤ 10) : 2 ^ m * 2 ^ (10 - m) = 1024 := by
  rw [← Nat.pow_add, Nat.add_sub_cancel' hm]

theorem hann_zero (m : Nat) : hann m 0 = 0 := by
  rw [hann_eq, Nat.zero_mul]
  decide

theorem hann_centre {m : Nat} (hlo : 1 ≤ m) (hhi : m ≤ 10) : hann m (2 ^ m / 2) = 32767 := by
  have hangle : 2 ^ m / 2 * 2 ^ (10 - m) = 512 := by
    rw [Nat.div_mul_right_comm (dvd_pow_self 2 (by omega)), window_mul_step hhi]
  rw [hann_eq, hangle]
  decide

theorem hann_symm {m n : Nat} (hm : m ≤ 10) (hlo : 1 ≤ n) (hhi : n < 2 ^ m) : hann m (2 ^ m - n) = hann m n := by
  have hstep : 0 < 2 ^ (10 - m) := Nat.two_pow_pos _
  have hangle : n * 2 ^ (10 - m) < 1024 := window_mul_step hm ▸ Nat.mul_lt_mul_of_pos_right hhi hstep
  rw [hann_eq, hann_eq, Nat.sub_mul, window_mul_step hm,
    cosRom_full_sub (Nat.mul_pos hlo hstep) (Nat.le_of_lt_succ hangle)]

/-! ### The windowed samples -/

theorem getElem?_windowFrom (m start n : Nat) (xs : List Int) :
    (windowFrom m start xs)[n]? = xs[n]?.map fun x => x * hann m (start + n) / 32768 := by
  induction xs generalizing start n with
  | nil => rfl
  | cons x xs ih =>
    cases n with
    | zero =>
      simp only [windowFrom, shiftRight_intFifteen]
      exact congrArg some (Int.shiftRight_eq_div_pow _ 15)
    | succ n => rw [windowFrom, List.getElem?_cons_succ, ih, List.getElem?_cons_succ, Nat.add_right_comm]; rfl

/-- The window scales a 16-bit sample by less than one (R134). -/
theorem windowed_bounds (m n : Nat) {x : Int} (hlo : -32768 ≤ x) (hhi : x ≤ 32767) :
    -32767 ≤ x * hann m n / 32768 ∧ x * hann m n / 32768 ≤ 32767 := by
  have hlow : -32768 * hann m n ≤ x * hann m n := Int.mul_le_mul_of_nonneg_right hlo (hann_nonneg m n)
  have hhigh : x * hann m n ≤ 32767 * hann m n := Int.mul_le_mul_of_nonneg_right hhi (hann_nonneg m n)
  have hle := hann_le m n
  omega

/-- Settles O37: the window's values by the cosine's symmetries, the windowed sample place by place. -/
theorem hannWindowing : Obligations.HannWindowing := by
  refine ⟨fun m hlo hhi => ⟨fun n _ => ⟨hann_eq m n, hann_nonneg m n, hann_le m n⟩, hann_zero m,
    hann_centre (by omega) hhi, fun n hn hlast => hann_symm hhi hn (by omega)⟩, by decide, by decide,
    fun m n xs x _ _ _ hx => ⟨?_, windowed_bounds m n⟩⟩
  rw [getElem?_windowFrom, hx, Nat.zero_add]
  rfl

end Sys2Proof.Machine
end

section
/-! PROOFS. The transform place by place (spec/41_spectral_transform.md R135): the load, then each stage. -/

namespace Sys2Proof.Machine

/-! ### The load -/

section Halves

variable {α : Type}

theorem getElem?_evens (xs : List α) (n : Nat) : (evens xs)[n]? = xs[2 * n]? := by
  induction xs using evens.induct generalizing n with
  | case1 => rfl
  | case2 x => cases n <;> rfl
  | case3 x y xs ih =>
    cases n with
    | zero => rfl
    | succ n => exact ih n

theorem getElem?_odds (xs : List α) (n : Nat) : (odds xs)[n]? = xs[2 * n + 1]? := by
  induction xs using odds.induct generalizing n with
  | case1 => rfl
  | case2 x => cases n <;> rfl
  | case3 x y xs ih =>
    cases n with
    | zero => rfl
    | succ n => exact ih n

theorem bitrev_lt (m n : Nat) : bitrev m n < 2 ^ m := by
  induction m generalizing n with
  | zero => exact Nat.one_pos
  | succ m ih =>
    have hlow := ih (n / 2)
    rw [bitrev, Nat.pow_succ]
    obtain hbit | hbit := Nat.mod_two_eq_zero_or_one n <;> rw [hbit] <;> omega

/-- The even elements fill the first half of the places and the odd ones the second (R135). -/
theorem getElem?_reversedOrder {m n : Nat} {xs : List α} (hlen : xs.length = 2 ^ m) (hn : n < 2 ^ m) :
    (reversedOrder m xs)[bitrev m n]? = xs[n]? := by
  induction m generalizing n xs with
  | zero =>
    obtain rfl : n = 0 := Nat.lt_one_iff.mp hn
    rfl
  | succ m ih =>
    obtain ⟨hevens, hodds⟩ := evens_odds_length xs
    have hfirst : (reversedOrder m (evens xs)).length = 2 ^ m := by rw [reversedOrder_length]; omega
    have hplace := bitrev_lt m (n / 2)
    rw [reversedOrder, bitrev]
    obtain hbit | hbit := Nat.mod_two_eq_zero_or_one n
    · rw [hbit, Nat.zero_mul, Nat.zero_add, List.getElem?_append_left (by omega), ih (by omega) (by omega),
        getElem?_evens, show 2 * (n / 2) = n by omega]
    · rw [hbit, Nat.one_mul, List.getElem?_append_right (by omega), hfirst, Nat.add_sub_cancel_left,
        ih (by omega) (by omega), getElem?_odds, show 2 * (n / 2) + 1 = n by omega]

theorem getElem?_eq_some_getD {xs : List α} {i : Nat} (hi : i < xs.length) (d : α) : xs[i]? = some (xs.getD i d) := by
  rw [List.getD_eq_getElem?_getD, List.getElem?_eq_getElem hi, Option.getD_some]

end Halves

/-- Settles O38: the load is the reversed order of the samples paired with 0. -/
theorem loadIsBitReversed : Obligations.LoadIsBitReversed := by
  intro m n v hlen hn
  rw [fftLoad, getElem?_reversedOrder (by rw [List.length_map, hlen]) hn, List.getElem?_map,
    getElem?_eq_some_getD (by omega) 0]
  rfl

/-! ### One stage -/

/-- A block of stage `s` has two halves. -/
theorem two_pow_eq_two_halves {s : Nat} (hs : 1 ≤ s) : 2 ^ s = 2 * 2 ^ (s - 1) := by
  rw [← pow_succ', Nat.sub_add_cancel hs]

/-- Both places of a butterfly are places of the array. -/
theorem butterfly_place_lt {s blocks r k : Nat} (hs : 1 ≤ s) (hr : r < blocks) (hk : k < 2 ^ (s - 1)) :
    r * 2 ^ s + k + 2 ^ (s - 1) < blocks * 2 ^ s := by
  have hspan := two_pow_eq_two_halves hs
  calc r * 2 ^ s + k + 2 ^ (s - 1) < r * 2 ^ s + 2 ^ s := by omega
    _ = (r + 1) * 2 ^ s := (Nat.succ_mul ..).symm
    _ ≤ blocks * 2 ^ s := Nat.mul_le_mul_right _ hr

/-- The butterfly of index `start + i` takes element `i` of each half (R135). -/
theorem getElem?_butterflies {s start i : Nat} {as bs : List (Int × Int)} {a b : Int × Int} (ha : as[i]? = some a)
    (hb : bs[i]? = some b) :
    (butterflies s start as bs).1[i]? = some (a + twiddled (twiddle s (start + i)) b) ∧
    (butterflies s start as bs).2[i]? = some (a - twiddled (twiddle s (start + i)) b) := by
  induction as generalizing start i bs with
  | nil => cases ha
  | cons a' as ih =>
    cases bs with
    | nil => cases hb
    | cons b' bs =>
      cases i with
      | zero =>
        obtain ⟨rfl, rfl⟩ : a' = a ∧ b' = b := ⟨Option.some.inj ha, Option.some.inj hb⟩
        exact ⟨rfl, rfl⟩
      | succ i =>
        have hrest := ih (start := start + 1) ha hb
        rwa [Nat.add_right_comm] at hrest

/-- Butterfly `k` of a block takes place `k` and the place half a block above it (R135). -/
theorem getElem?_fftBlock {s k : Nat} {xs : List (Int × Int)} {za zb : Int × Int} (hs : 1 ≤ s)
    (hlen : xs.length = 2 ^ s) (hk : k < 2 ^ (s - 1)) (ha : xs[k]? = some za)
    (hb : xs[k + 2 ^ (s - 1)]? = some zb) :
    (fftBlock s xs)[k]? = some (za + twiddled (twiddle s k) zb) ∧
    (fftBlock s xs)[k + 2 ^ (s - 1)]? = some (za - twiddled (twiddle s k) zb) := by
  have hspan := two_pow_eq_two_halves hs
  have hupper : (butterflies s 0 (xs.take (2 ^ (s - 1))) (xs.drop (2 ^ (s - 1)))).1.length = 2 ^ (s - 1) := by
    rw [(butterflies_length ..).1, List.length_take, List.length_drop]
    omega
  have hpair := getElem?_butterflies (s := s) (start := 0) (i := k) ((List.getElem?_take_of_lt hk).trans ha)
    ((List.getElem?_drop ..).trans (Nat.add_comm k _ ▸ hb))
  rw [Nat.zero_add] at hpair
  rw [fftBlock, List.getElem?_append_left (by omega), List.getElem?_append_right (by omega), hupper,
    Nat.add_sub_cancel]
  exact hpair

/-- A stage works block by block, and block `r` is the `2^s` places from `r × 2^s` on (R135). -/
theorem getElem?_fftStage_block {s blocks r i : Nat} {xs : List (Int × Int)} (hs : 1 ≤ s)
    (hlen : xs.length = blocks * 2 ^ s) (hr : r < blocks) (hi : i < 2 ^ s) :
    (fftStage s blocks xs)[r * 2 ^ s + i]? = (fftBlock s ((xs.drop (r * 2 ^ s)).take (2 ^ s)))[i]? := by
  induction blocks generalizing r xs with
  | zero => omega
  | succ blocks ih =>
    rw [Nat.succ_mul] at hlen
    have hfirst : (fftBlock s (xs.take (2 ^ s))).length = 2 ^ s :=
      fftBlock_length hs (by rw [List.length_take]; omega)
    rw [fftStage]
    cases r with
    | zero => rw [Nat.zero_mul, Nat.zero_add, List.getElem?_append_left (by omega), List.drop_zero]
    | succ r =>
      rw [Nat.succ_mul, Nat.add_right_comm, List.getElem?_append_right (by omega), hfirst, Nat.add_sub_cancel,
        ih (by rw [List.length_drop]; omega) (by omega), List.drop_drop, Nat.add_comm (2 ^ s)]

/-- Stage `s` at place `a` of block `r` and its partner `b`: the butterfly of index `k`, from the old values (R135). -/
theorem getElem?_fftStage {s blocks r k : Nat} {xs : List (Int × Int)} {za zb : Int × Int} (hs : 1 ≤ s)
    (hlen : xs.length = blocks * 2 ^ s) (hr : r < blocks) (hk : k < 2 ^ (s - 1))
    (ha : xs[r * 2 ^ s + k]? = some za) (hb : xs[r * 2 ^ s + k + 2 ^ (s - 1)]? = some zb) :
    (fftStage s blocks xs)[r * 2 ^ s + k]? = some (za + twiddled (twiddle s k) zb) ∧
    (fftStage s blocks xs)[r * 2 ^ s + k + 2 ^ (s - 1)]? = some (za - twiddled (twiddle s k) zb) := by
  have hspan := two_pow_eq_two_halves hs
  have hinside : r * 2 ^ s + 2 ^ s ≤ blocks * 2 ^ s := Nat.succ_mul r _ ▸ Nat.mul_le_mul_right _ hr
  have hblock : ∀ i, i < 2 ^ s → ((xs.drop (r * 2 ^ s)).take (2 ^ s))[i]? = xs[r * 2 ^ s + i]? := fun i hi => by
    rw [List.getElem?_take_of_lt hi, List.getElem?_drop]
  rw [Nat.add_assoc] at hb ⊢
  rw [getElem?_fftStage_block hs hlen hr (by omega), getElem?_fftStage_block hs hlen hr (by omega)]
  exact getElem?_fftBlock hs (by rw [List.length_take, List.length_drop]; omega) hk
    ((hblock k (by omega)).trans ha) ((hblock _ (by omega)).trans hb)

/-! ### The stages in order -/

theorem fftStages_eq_foldl (m count s : Nat) (xs : List (Int × Int)) : fftStages m count s xs =
    (List.range' s count).foldl (fun ys i => fftStage (i + 1) (2 ^ (m - (i + 1))) ys) xs := by
  induction count generalizing s xs with
  | zero => rfl
  | succ count ih => rw [fftStages, ih, List.range'_succ, List.foldl_cons]

/-- Settles O39: each butterfly by its block, the stages by their recursion. -/
theorem stagesAreButterflies : Obligations.StagesAreButterflies := by
  refine ⟨fun s blocks r k xs hs hlen hr hk => ?butterfly, fun m v => ?order⟩
  case butterfly =>
    have hplace := butterfly_place_lt hs hr hk
    exact getElem?_fftStage hs hlen hr hk (getElem?_eq_some_getD (by omega) _) (getElem?_eq_some_getD (by omega) _)
  case order => rw [fft, fftStages_eq_foldl, List.range_eq_range']

end Sys2Proof.Machine
end

section
/-! PROOFS. The size of the transform's values (spec/41_spectral_transform.md R138): a bound that grows with the stages,
kept by every butterfly. -/

namespace Sys2Proof.Machine

/-! ### Pairs with bounded components -/

/-- Both components are at most `b` in magnitude. -/
def Within (b : Nat) (z : Int × Int) : Prop := |z.1| ≤ b ∧ |z.2| ≤ b

theorem Within.add {b c : Nat} {z w : Int × Int} (hz : Within b z) (hw : Within c w) : Within (b + c) (z + w) := by
  obtain ⟨hz₁, hz₂⟩ := hz
  obtain ⟨hw₁, hw₂⟩ := hw
  rw [Within, Nat.cast_add]
  exact ⟨(abs_add_le _ _).trans (add_le_add hz₁ hw₁), (abs_add_le _ _).trans (add_le_add hz₂ hw₂)⟩

theorem Within.neg {b : Nat} {z : Int × Int} (hz : Within b z) : Within b (-z) := by
  obtain ⟨h₁, h₂⟩ := hz
  exact ⟨(abs_neg z.1).trans_le h₁, (abs_neg z.2).trans_le h₂⟩

/-! ### One twiddle product -/

/-- The two legs of an angle of the ROM, inside the circle of radius 32768, add up to at most 46340 (R138). -/
theorem abs_cosRom_add_abs_sinRom_le {i : Nat} (hi : i < 1024) : |cosRom i| + |sinRom i| ≤ 46340 := by
  have hcircle := sinRom_sq_add_cosRom_sq_lt hi
  have hsq : (|cosRom i| + |sinRom i|) ^ 2 < 46341 ^ 2 := by
    calc (|cosRom i| + |sinRom i|) ^ 2 ≤ 2 * (|cosRom i| ^ 2 + |sinRom i| ^ 2) := add_sq_le
      _ = 2 * (sinRom i * sinRom i + cosRom i * cosRom i) := by rw [sq_abs, sq_abs]; ring
      _ < 46341 ^ 2 := by omega
  exact Int.lt_add_one_iff.mp (lt_of_pow_lt_pow_left₀ 2 (by decide) hsq)

/-- The ROM indices of a stage lie in the first half of the table (R135). -/
theorem twiddle_index_lt {s k : Nat} (hlo : 1 ≤ s) (hhi : s ≤ 10) (hk : k < 2 ^ (s - 1)) :
    k * 2 ^ (10 - s) < 1024 :=
  calc k * 2 ^ (10 - s) < 2 ^ (s - 1) * 2 ^ (10 - s) := Nat.mul_lt_mul_of_pos_right hk (Nat.two_pow_pos _)
    _ = 2 ^ (s - 1 + (10 - s)) := (Nat.pow_add ..).symm
    _ ≤ 2 ^ 10 := Nat.pow_le_pow_right (by decide) (by omega)

theorem twiddled_eq (w b : Int × Int) :
    twiddled w b = ((b.1 * w.1 - b.2 * w.2) / 32768, (b.1 * w.2 + b.2 * w.1) / 32768) := by
  simp only [twiddled, shiftRight_intFifteen]
  exact congrArg₂ Prod.mk (Int.shiftRight_eq_div_pow _ 15) (Int.shiftRight_eq_div_pow _ 15)

/-- A floor division by 32768 loses at most one (R138). -/
theorem abs_ediv_le {x : Int} {c : Nat} (h : |x| ≤ c) : |x / 32768| ≤ (c / 32768 + 1 : Nat) := by
  rw [abs_le] at h ⊢
  omega

theorem abs_mul_add_mul_le {p q u v : Int} {b c : Nat} (hp : |p| ≤ b) (hq : |q| ≤ b) (huv : |u| + |v| ≤ c) :
    |p * u + q * v| ≤ (c * b : Nat) :=
  calc |p * u + q * v| ≤ |p| * |u| + |q| * |v| := by
        rw [← abs_mul, ← abs_mul]
        exact abs_add_le _ _
    _ ≤ b * |u| + b * |v| := by gcongr
    _ = (|u| + |v|) * b := by ring
    _ ≤ c * b := by gcongr
    _ = (c * b : Nat) := (Nat.cast_mul ..).symm

theorem within_twiddled {b i : Nat} {z : Int × Int} (hi : i < 1024) (hz : Within b z) :
    Within (46340 * b / 32768 + 1) (twiddled (cosRom i, -sinRom i) z) := by
  obtain ⟨hre, him⟩ := hz
  have hlegs : |cosRom i| + |sinRom i| ≤ (46340 : Nat) := abs_cosRom_add_abs_sinRom_le hi
  have hswapped : |-sinRom i| + |cosRom i| ≤ (46340 : Nat) := by rwa [abs_neg, add_comm]
  rw [twiddled_eq, mul_neg, sub_neg_eq_add]
  exact ⟨abs_ediv_le (abs_mul_add_mul_le hre him hlegs), abs_ediv_le (abs_mul_add_mul_le hre him hswapped)⟩

/-! ### The stages -/

/-- The bound after `s` stages: each at most multiplies it by `1 + 46340/32768` and adds 1 (R138). -/
def componentBound : Nat → Nat
  | 0 => 32767
  | s + 1 => componentBound s + (46340 * componentBound s / 32768 + 1)

theorem componentBound_mono : Monotone componentBound :=
  monotone_nat_of_le_succ fun _ => Nat.le_add_right _ _

/-- Whatever a stage leaves came out of one of its butterflies (R135). -/
theorem mem_fftStage {s blocks : Nat} {xs : List (Int × Int)} {z : Int × Int} (hs : 1 ≤ s)
    (hlen : xs.length = blocks * 2 ^ s) (hz : z ∈ fftStage s blocks xs) :
    ∃ k, k < 2 ^ (s - 1) ∧ ∃ za ∈ xs, ∃ zb ∈ xs,
      z = za + twiddled (twiddle s k) zb ∨ z = za - twiddled (twiddle s k) zb := by
  obtain ⟨i, hi⟩ := List.mem_iff_getElem?.mp hz
  have hlt : i < blocks * 2 ^ s := fftStage_length hs blocks hlen ▸ (List.getElem?_eq_some_iff.mp hi).1
  have hr : i / 2 ^ s < blocks := Nat.div_lt_of_lt_mul (Nat.mul_comm .. ▸ hlt)
  have hspan := two_pow_eq_two_halves hs
  have hmod : i % 2 ^ s < 2 ^ s := Nat.mod_lt _ (Nat.two_pow_pos s)
  have hplace : i / 2 ^ s * 2 ^ s + i % 2 ^ s = i := Nat.div_add_mod' ..
  have hbutterfly : ∀ k, k < 2 ^ (s - 1) → ∃ za ∈ xs, ∃ zb ∈ xs,
      (fftStage s blocks xs)[i / 2 ^ s * 2 ^ s + k]? = some (za + twiddled (twiddle s k) zb) ∧
      (fftStage s blocks xs)[i / 2 ^ s * 2 ^ s + k + 2 ^ (s - 1)]? = some (za - twiddled (twiddle s k) zb) := by
    intro k hk
    have hb := butterfly_place_lt hs hr hk
    exact ⟨_, List.getElem_mem (by omega), _, List.getElem_mem (by omega),
      getElem?_fftStage hs hlen hr hk (List.getElem?_eq_getElem (by omega)) (List.getElem?_eq_getElem (by omega))⟩
  by_cases hlow : i % 2 ^ s < 2 ^ (s - 1)
  · obtain ⟨za, hza, zb, hzb, hat, -⟩ := hbutterfly _ hlow
    rw [hplace, hi] at hat
    exact ⟨_, hlow, za, hza, zb, hzb, .inl (Option.some.inj hat)⟩
  · obtain ⟨za, hza, zb, hzb, -, hat⟩ := hbutterfly (i % 2 ^ s - 2 ^ (s - 1)) (by omega)
    rw [show i / 2 ^ s * 2 ^ s + (i % 2 ^ s - 2 ^ (s - 1)) + 2 ^ (s - 1) = i by omega, hi] at hat
    exact ⟨_, by omega, za, hza, zb, hzb, .inr (Option.some.inj hat)⟩

theorem within_fftStage {s blocks : Nat} {xs : List (Int × Int)} (hs : s + 1 ≤ 10)
    (hlen : xs.length = blocks * 2 ^ (s + 1)) (hxs : ∀ z ∈ xs, Within (componentBound s) z) :
    ∀ z ∈ fftStage (s + 1) blocks xs, Within (componentBound (s + 1)) z := by
  intro z hz
  obtain ⟨k, hk, za, hza, zb, hzb, hcase⟩ := mem_fftStage (Nat.succ_pos s) hlen hz
  have hproduct : Within _ (twiddled (twiddle (s + 1) k) zb) :=
    within_twiddled (twiddle_index_lt (Nat.succ_pos s) hs hk) (hxs zb hzb)
  obtain rfl | rfl := hcase
  · exact (hxs za hza).add hproduct
  · rw [sub_eq_add_neg]
    exact (hxs za hza).add hproduct.neg

theorem within_fftStages {m count s : Nat} (hm : m ≤ 10) (hs : s + count = m) {xs : List (Int × Int)}
    (hlen : xs.length = 2 ^ m) (hxs : ∀ z ∈ xs, Within (componentBound s) z) :
    ∀ z ∈ fftStages m count s xs, Within (componentBound m) z := by
  induction count generalizing s xs with
  | zero => exact hs ▸ hxs
  | succ count ih =>
    have hblocks : 2 ^ (m - (s + 1)) * 2 ^ (s + 1) = 2 ^ m := by rw [← pow_add, Nat.sub_add_cancel (by omega)]
    rw [← hblocks] at hlen
    exact ih (by omega) ((fftStage_length (Nat.succ_pos s) _ hlen).trans hblocks)
      (within_fftStage (by omega) hlen hxs)

/-! ### The whole transform -/

theorem evens_append_odds_perm {α : Type} (xs : List α) : (evens xs ++ odds xs).Perm xs := by
  induction xs using evens.induct with
  | case1 => exact .refl _
  | case2 x => exact .refl _
  | case3 x y xs ih => exact (List.perm_middle.trans (ih.cons y)).cons x

theorem reversedOrder_perm {α : Type} (m : Nat) (xs : List α) : (reversedOrder m xs).Perm xs := by
  induction m generalizing xs with
  | zero => exact .refl _
  | succ m ih => exact ((ih _).append (ih _)).trans (evens_append_odds_perm xs)

theorem within_fft {m : Nat} {v : List Int} (hm : m ≤ 10) (hlen : v.length = 2 ^ m)
    (hv : ∀ x ∈ v, -32767 ≤ x ∧ x ≤ 32767) : ∀ z ∈ fft m v, Within (componentBound m) z := by
  refine within_fftStages hm (Nat.zero_add m) (by simp [fftLoad, reversedOrder_length, hlen]) fun z hz => ?_
  obtain ⟨x, hx, rfl⟩ := List.mem_map.mp ((reversedOrder_perm m _).mem_iff.mp hz)
  exact ⟨abs_le.mpr (hv x hx), abs_zero.trans_le (Nat.cast_nonneg _)⟩

theorem magnitude_lt_of_within {b c : Nat} {z : Int × Int} (hz : Within b z) (hc : 2 * b ^ 2 < c ^ 2) :
    magnitude z < c := by
  obtain ⟨h₁, h₂⟩ := hz
  have hpower : z.1 * z.1 + z.2 * z.2 ≤ (2 * b ^ 2 : Nat) := by
    have hre := sq_le_sq' (abs_le.mp h₁).1 (abs_le.mp h₁).2
    have him := sq_le_sq' (abs_le.mp h₂).1 (abs_le.mp h₂).2
    push_cast
    linarith
  rw [magnitude, isqrt_eq_sqrt, Nat.sqrt_lt']
  omega

/-- Settles O40: the bound after ten stages is 220366420, and the diagonal of its square is below 311656662. -/
theorem transformBounds : Obligations.TransformBounds := by
  intro m v _ hm hlen hv z hz
  have hten : componentBound 10 = 220366420 := by decide
  have hbound : componentBound m ≤ 220366420 := hten ▸ componentBound_mono hm
  have hwithin := within_fft hm hlen hv z hz
  have hmagnitude : magnitude z < 311656662 := magnitude_lt_of_within hwithin
    ((Nat.mul_le_mul_left 2 (Nat.pow_le_pow_left hbound 2)).trans_lt (by decide))
  obtain ⟨⟨hre₁, hre₂⟩, him₁, him₂⟩ := hwithin.imp abs_le.mp abs_le.mp
  refine ⟨by omega, by omega, by omega, by omega, hmagnitude, ?_⟩
  rw [BitVec.toNat_ofNat, Nat.mod_eq_of_lt (by omega)]

end Sys2Proof.Machine
end

section
/-! PROOFS. XFRM on a written frame (spec/41_spectral_transform.md R136, R137). -/

namespace Sys2Proof.Machine

open Sys2Proof.Safety

/-- Bin `k` of a spectrum is the magnitude of place `k` of the transform of the windowed samples (R136). -/
theorem getElem?_spectrum {m k : Nat} {xs : List Int} (hlen : xs.length = 2 ^ m) (hm : 1 ≤ m) (hk : k ≤ 2 ^ m / 2) :
    (spectrum m xs)[k]? = some (magnitude ((fft m (windowFrom m 0 xs)).getD k (0, 0))) := by
  have hsize := two_pow_eq_two_halves hm
  have hhalf : 0 < 2 ^ (m - 1) := Nat.two_pow_pos _
  have hfft : (fft m (windowFrom m 0 xs)).length = 2 ^ m := fft_length (by rw [windowFrom_length, hlen])
  rw [spectrum, List.getElem?_map, List.getElem?_take_of_lt (by omega), getElem?_eq_some_getD (by omega) (0, 0)]
  rfl

/-- The spectrum stored in SPECMEM: bins 0 to `W/2` read it, the bins above what they read before (R137). -/
theorem read_store_spectrum (mem : Memory 32) {m : Nat} {xs : List Int} (hlen : xs.length = 2 ^ m) (hm : 1 ≤ m) :
    (∀ k, k ≤ 2 ^ m / 2 → Memory.read (Memory.storeFromZero mem ((spectrum m xs).map (BitVec.ofNat 32))) k =
      some (BitVec.ofNat 32 (magnitude ((fft m (windowFrom m 0 xs)).getD k (0, 0))))) ∧
    ∀ k, 2 ^ m / 2 < k →
      Memory.read (Memory.storeFromZero mem ((spectrum m xs).map (BitVec.ofNat 32))) k = Memory.read mem k := by
  have hbins : ((spectrum m xs).map (BitVec.ofNat 32)).length = 2 ^ m / 2 + 1 := by
    rw [List.length_map, spectrum_length hm hlen]
  refine ⟨fun k hk => ?_, fun k hk => Memory.read_storeFromZero_of_le mem (by omega)⟩
  rw [Memory.read_storeFromZero, if_pos (by omega), List.getElem?_map, getElem?_spectrum hlen hm hk]
  rfl

/-- A command whose checks pass and whose body answers without decoding bits raises nothing (R196). -/
theorem exec_of_body_ok {i : Instr} {s u : State} (hjudge : judge i s = .nothing) (hquiet : decodesBits i = false)
    (hbody : bodyOf i s = .ok u) :
    exec i s = .next { u with status := completed u.status false, cfgcause := Causes.none } := by
  rw [exec_eq_runCommand, runCommand_of_ok hjudge hbody, hquiet, Bool.false_and, u.complete_nothing]

/-- Settles O42: the reads give the frame's samples, the body stores their spectrum, and completion raises nothing. -/
theorem xfrmCompletes : Obligations.XfrmCompletes := by
  intro j s hwindow hhop hfits hinside hwritten
  have hjudge := judge_xfrm_eq_nothing ⟨hwindow, hhop, hfits⟩ ((lt_frameCount_iff hhop).mpr hinside)
  obtain ⟨xs, hxs⟩ : ∃ xs, fetchRun .smpmem s.smpmem (frameOffset s j) (windowSize s) = .ok xs :=
    fetchRun_isOk (written_iff.mp hwritten)
  obtain ⟨hlen, hread⟩ := fetchRun_ok hxs
  have hbody : bodyOf (.xfrm j) s = .ok { s with
      specmem := Memory.storeFromZero s.specmem ((spectrum (windowLog s) (xs.map BitVec.toInt)).map (BitVec.ofNat 32))
      toff := BitVec.ofNat 32 (frameOffset s j) } := by
    simp only [bodyOf, xfrmBody, hxs]
  obtain ⟨hbins, habove⟩ := read_store_spectrum s.specmem (m := windowLog s) (xs := xs.map BitVec.toInt)
    ((List.length_map _).trans hlen) (Nat.le_trans (by decide) hwindow.1)
  exact ⟨_, xs, exec_of_body_ok hjudge rfl hbody, rfl, hlen, hread, hbins, habove⟩

end Sys2Proof.Machine
end

section
/-! PROOFS. The search band (spec/42_frequency_extractor.md R151). -/

namespace Sys2Proof.Machine

/-- Subtraction of naturals is the rule's subtraction clamped at 0. -/
theorem bandLow_eq (s : State) : bandLow s = s.fcenter.toNat - s.fdev.toNat - s.fmargin.toNat := by
  rw [bandLow]
  omega

theorem binWidth_pos (s : State) : 0 < binWidth s := Nat.two_pow_pos _

/-- Rounding the low end up finds the first centre at or above it. -/
theorem binLow_le_iff {s : State} {k : Nat} : binLow s ≤ k ↔ 1 ≤ k ∧ bandLow s ≤ k * binWidth s := by
  have hpos := binWidth_pos s
  have hround : (bandLow s + binWidth s - 1) / binWidth s ≤ k ↔ bandLow s ≤ k * binWidth s := by
    rw [← Nat.lt_succ_iff, Nat.div_lt_iff_lt_mul hpos, Nat.succ_mul]
    omega
  rw [binLow, Nat.max_le, Nat.shiftRight_eq_div_pow, ← binWidth, hround]

/-- Rounding the high end down finds the last centre at or below it. -/
theorem le_binHigh_iff {s : State} {k : Nat} :
    k ≤ binHigh s ↔ k ≤ windowSize s / 2 - 1 ∧ k * binWidth s ≤ bandHigh s := by
  rw [binHigh, Nat.le_min, Nat.shiftRight_eq_div_pow, ← binWidth, Nat.le_div_iff_mul_le (binWidth_pos s)]

/-- Settles O43: each end of the band rounds to the candidate bin next to it inside. -/
theorem bandIsClosed : Obligations.BandIsClosed := by
  refine ⟨fun s k _ => ?_, by decide, by decide⟩
  rw [binLow_le_iff, le_binHigh_iff, bandLow_eq, and_assoc, and_left_comm (b := _ ≤ windowSize s / 2 - 1)]
  rfl

end Sys2Proof.Machine
end

section
/-! PROOFS. The peak locator (spec/42_frequency_extractor.md R152). -/

namespace Sys2Proof.Machine

/-- A list that is not empty has a first place that holds its greatest element. -/
theorem exists_first_maximum {xs : List Nat} (h : xs ≠ []) : ∃ n b : Nat, xs[n]? = some b ∧ (∀ x ∈ xs, x ≤ b) ∧
    ∀ l x, l < n → xs[l]? = some x → x < b := by
  obtain ⟨b, hb⟩ := Option.isSome_iff_exists.mp (List.isSome_max?_of_ne_nil h)
  obtain ⟨hmem, hmax⟩ := List.max?_eq_some_iff.mp hb
  have hplace : ∃ n, xs[n]? = some b := List.getElem?_of_mem hmem
  refine ⟨Nat.find hplace, b, Nat.find_spec hplace, hmax, fun l x hl hx => ?_⟩
  refine lt_of_le_of_ne (hmax x (List.mem_of_getElem? hx)) ?_
  rintro rfl
  exact Nat.find_min hplace hl hx

/-- The scan ends at the first place that holds the greatest magnitude. -/
theorem exists_peakBin_eq_add (kLo : Nat) {xs : List Nat} (h : xs ≠ []) : ∃ n b, peakBin kLo xs = kLo + n ∧
    xs[n]? = some b ∧ (∀ x ∈ xs, x ≤ b) ∧ ∀ l x, l < n → xs[l]? = some x → x < b := by
  obtain ⟨n, b, hn, hmax, hfirst⟩ := exists_first_maximum h
  exact ⟨n, b, peakBin_eq_add hn hmax hfirst, hn, hmax, hfirst⟩

/-- Settles O44: the scan ends at the first place of the greatest magnitude, which is place 0 where all are equal. -/
theorem peakIsLeastMaximum : Obligations.PeakIsLeastMaximum := by
  intro kLo xs hxs
  obtain ⟨n, b, hpeak, hn, hmax, hfirst⟩ := exists_peakBin_eq_add kLo hxs
  obtain ⟨hlt, htop⟩ := List.getElem?_eq_some_iff.mp hn
  rw [hpeak, Nat.add_sub_cancel_left, List.getD_eq_getElem _ _ hlt, htop]
  refine ⟨Nat.le_add_right _ _, Nat.add_lt_add_left hlt _, fun i hi => ?greatest, fun i hi => ?least,
    fun hzero => ?flat⟩
  case greatest =>
    rw [List.getD_eq_getElem _ _ hi]
    exact hmax _ (List.getElem_mem hi)
  case least =>
    have hin : i < n := Nat.lt_of_add_lt_add_left hi
    rw [List.getD_eq_getElem _ _ (hin.trans hlt)]
    exact hfirst i _ hin (List.getElem?_eq_getElem _)
  case flat =>
    by_contra hne
    have hlower := hfirst 0 _ (by omega) (List.getElem?_eq_getElem (List.length_pos_of_ne_nil hxs))
    rw [hzero b (List.mem_of_getElem? hn)] at hlower
    exact Nat.not_lt_zero _ hlower

end Sys2Proof.Machine
end

section
/-! PROOFS. The refinement and the frequency word (spec/42_frequency_extractor.md R153 to R155). -/

namespace Sys2Proof.Machine

/-- The vertex lies at most half a bin from the peak, because the denominator is the sum of the two drops (R153). -/
theorem abs_parabola_le (m : Nat) (a b c : Int) : |parabola m a b c| ≤ 2 ^ (31 - m) := by
  rw [parabola]
  split
  case isTrue h =>
    have hdrop : (c - a).natAbs ≤ (2 * b - a - c).natAbs := by omega
    rw [Int.abs_eq_natAbs, Int.natAbs_tdiv, Int.natAbs_mul, Int.natAbs_pow]
    exact_mod_cast Nat.div_le_of_le_mul (Nat.mul_le_mul_right _ hdrop)
  case isFalse =>
    rw [abs_zero]
    positivity

/-- VALID and F are put together without loss where F is a frequency below `2^31` (R154). -/
theorem toNat_frameWord (valid : Bool) {f : Int} (hlo : 0 ≤ f) (hhi : f < 2 ^ 31) :
    (frameWord valid f).toNat = 2 ^ 31 * valid.toNat + f.toNat := by
  have hvalid := valid.toNat_le
  have hfield : (BitVec.ofInt 31 f).toNat = f.toNat := by
    rw [BitVec.toNat_ofInt]
    omega
  rw [frameWord, hfield, BitVec.toNat_ofNat, Nat.mod_eq_of_lt (by omega)]

/-- A bin below the Nyquist bin, moved by at most half a bin, stays half a bin inside `0 .. 2^31` (R154). -/
theorem estimate_bounds {m k : Nat} (hm : m ≤ 10) (hlo : 1 ≤ k) (hhi : k ≤ 2 ^ m / 2 - 1) {delta : Int}
    (hdelta : |delta| ≤ 2 ^ (31 - m)) :
    (2 : Int) ^ (31 - m) ≤ k * 2 ^ (32 - m) + delta ∧ (k * 2 ^ (32 - m) + delta : Int) ≤ 2 ^ 31 - 2 ^ (31 - m) := by
  have hwidth : (2 : Int) ^ (32 - m) = 2 * 2 ^ (31 - m) := by rw [← pow_succ', Nat.succ_sub (by omega : m ≤ 31)]
  have htop : (2 : Int) ^ 31 = 2 ^ m * 2 ^ (31 - m) := by rw [← pow_add, Nat.add_sub_cancel' (by omega)]
  obtain ⟨hleft, hright⟩ := abs_le.mp hdelta
  have hfirst : (1 : Int) * 2 ^ (31 - m) ≤ k * 2 ^ (31 - m) := by gcongr; exact_mod_cast hlo
  have hlast : (2 * k + 2 : Int) * 2 ^ (31 - m) ≤ 2 ^ m * 2 ^ (31 - m) := by
    gcongr
    exact_mod_cast (by omega : 2 * k + 2 ≤ 2 ^ m)
  rw [hwidth, htop]
  constructor <;> linarith

/-- Settles O45: the bound of the refinement places the estimate, and the estimate fits its field. -/
theorem estimateWithinHalfBin : Obligations.EstimateWithinHalfBin := by
  intro m k a b c _ hm hlo hhi delta f
  have hdelta : |delta| ≤ 2 ^ (31 - m) := abs_parabola_le m a b c
  obtain ⟨hleft, hright⟩ := abs_le.mp hdelta
  obtain ⟨hflo, hfhi⟩ := estimate_bounds hm hlo hhi hdelta
  have hbin : (0 : Int) < 2 ^ (31 - m) := by positivity
  refine ⟨hleft, hright, hflo, hfhi, fun valid => ?_⟩
  have hvalid := valid.toNat_le
  have hword := toNat_frameWord valid (f := f) (by omega) (by omega)
  have hquot : (frameWord valid f).toNat / 2 ^ 31 = valid.toNat := by omega
  refine ⟨?_, by omega⟩
  rw [BitVec.getLsbD, Nat.testBit_eq_decide_div_mod_eq, hquot]
  cases valid <;> rfl

end Sys2Proof.Machine
end

section
/-! PROOFS. When the extractor's checks pass, and XTRC on a written band (spec/42_frequency_extractor.md R150 to R156,
spec/44_control.md R192, R193). -/

namespace Sys2Proof.Machine

open Sys2Proof.Safety

/-! ### The checks -/

/-- With legal tones, window and band three predicates are left to hold (R192). -/
theorem cfgCauses_of_legal {s : State} (htones : TonesLegal s) (hwindow : WindowLegal s) (hband : BandLegal s) :
    cfgCauses s = { Causes.none with
      spb0 := decide (s.spb.toNat = 0)
      hop0 := decide (s.hop.toNat = 0)
      winspb := decide (s.spb.toNat < windowSize s) } := by
  obtain ⟨hfc, hfd, hfdge, hnyq⟩ := htones
  rw [cfgCauses, windowIllegal_eq_false_iff.mpr hwindow, decide_eq_false hfc, decide_eq_false hfd,
    decide_eq_false (Nat.not_le.mpr hfdge), decide_eq_false (Nat.not_le.mpr hnyq),
    decide_eq_false (Nat.not_lt.mpr hband)]
  rfl

theorem judge_xtrc_eq_nothing {s : State} (htones : TonesLegal s) (hwindow : WindowLegal s) (hband : BandLegal s) :
    judge .xtrc s = .nothing := by
  refine judge_nothing_iff.mpr ⟨?_, rfl⟩
  rw [heldCauses, cfgCauses_of_legal htones hwindow hband]
  simp [Causes.inter, relevantSet, Causes.none, capCondition]

/-- None of the nine predicates holds in a legal configuration (R192). -/
theorem cfgCauses_eq_none {s : State} (h : AllLegal s) : cfgCauses s = Causes.none := by
  obtain ⟨htones, hspb, hwindow, hhop, hfits, hband⟩ := h
  rw [cfgCauses_of_legal htones hwindow hband, decide_eq_false hspb, decide_eq_false hhop,
    decide_eq_false (show ¬s.spb.toNat < windowSize s from Nat.not_lt.mpr hfits)]
  rfl

/-- In a legal configuration only the capacity and the operand can raise (R191). -/
theorem judge_eq_nothing_of_allLegal {i : Instr} {s : State} (h : AllLegal s) (hcap : capCondition i s = false)
    (hoperand : operandIllegal i s = false) : judge i s = .nothing := by
  refine judge_nothing_iff.mpr ⟨?_, hoperand⟩
  rw [heldCauses, cfgCauses_eq_none h, hcap]
  rfl

theorem judge_anlz_eq_nothing {s : State} (h : AllLegal s) (hslen : s.slen.toNat ≤ 65536) :
    judge .anlz s = .nothing :=
  judge_eq_nothing_of_allLegal h (decide_eq_false (Nat.not_lt.mpr hslen)) rfl

/-! ### The peak of a written band -/

/-- The peak and its magnitude, from what the band's entries read (R152). -/
theorem peak_of_band {s : State} (hband : BandLegal s) {mags : List Word}
    (hmags : fetchRun .specmem s.specmem (binLow s) (binHigh s + 1 - binLow s) = .ok mags) :
    ∃ (k : Nat) (b : Word), peakBin (binLow s) (mags.map BitVec.toNat) = k ∧ mags.getD (k - binLow s) 0 = b ∧
      binLow s ≤ k ∧ k ≤ binHigh s ∧ Memory.read s.specmem k = some b ∧
      (∀ i v, binLow s ≤ i → i ≤ binHigh s → Memory.read s.specmem i = some v → v.toNat ≤ b.toNat) ∧
      ∀ i v, binLow s ≤ i → i < k → Memory.read s.specmem i = some v → v.toNat < b.toNat := by
  obtain ⟨hlen, hread⟩ := fetchRun_ok hmags
  have hne : mags.map BitVec.toNat ≠ [] := List.ne_nil_of_length_pos (by rw [List.length_map]; omega)
  obtain ⟨n, top, hpeak, hn, hmax, hfirst⟩ := exists_peakBin_eq_add (binLow s) hne
  rw [List.getElem?_map, Option.map_eq_some_iff] at hn
  obtain ⟨b, hb, rfl⟩ := hn
  have hlt : n < mags.length := (List.getElem?_eq_some_iff.mp hb).1
  have hentry : ∀ {i v}, binLow s ≤ i → i ≤ binHigh s → Memory.read s.specmem i = some v →
      (mags.map BitVec.toNat)[i - binLow s]? = some v.toNat := by
    intro i v hlo hhi hv
    rw [List.getElem?_map, ← hread _ (by omega), Nat.add_sub_cancel' hlo, hv]
    rfl
  refine ⟨binLow s + n, b, hpeak, ?_, Nat.le_add_right _ _, by omega, (hread n (by omega)).trans hb, ?greatest, ?least⟩
  · rw [Nat.add_sub_cancel_left, List.getD_eq_getElem?_getD, hb]
    rfl
  case greatest => exact fun i v hlo hhi hv => hmax _ (List.mem_of_getElem? (hentry hlo hhi hv))
  case least => exact fun i v hlo hi hv => hfirst (i - binLow s) _ (by omega) (hentry hlo (by omega) hv)

/-! ### The body -/

/-- The body of XTRC in terms of its reads (R156). -/
theorem xtrcBody_of_reads {s : State} {mags : List Word} {delta : Int}
    (hmags : fetchRun .specmem s.specmem (binLow s) (binHigh s + 1 - binLow s) = .ok mags)
    (hdelta : refinement (peakBin (binLow s) (mags.map BitVec.toNat)) s = .ok delta) : xtrcBody s = .ok { s with
      peak := BitVec.ofNat 10 (peakBin (binLow s) (mags.map BitVec.toNat))
      peakmag := mags.getD (peakBin (binLow s) (mags.map BitVec.toNat) - binLow s) 0
      freq := frameWord
        (decide (s.mthresh.toNat ≤ (mags.getD (peakBin (binLow s) (mags.map BitVec.toNat) - binLow s) 0).toNat))
        (peakBin (binLow s) (mags.map BitVec.toNat) * 2 ^ (32 - windowLog s) + delta) } := by
  simp only [xtrcBody, hmags, hdelta]

theorem exec_xtrc_of_ok {s u : State} (hbody : xtrcBody s = .ok u) (htones : TonesLegal s) (hwindow : WindowLegal s)
    (hband : BandLegal s) : exec .xtrc s = .next { u with
      status := completed u.status false
      cfgcause := Causes.none } :=
  exec_of_body_ok (judge_xtrc_eq_nothing htones hwindow hband) rfl hbody

/-- The refinement succeeds where it is switched off, or the peak and its neighbours are written. -/
theorem refinement_isOk_of_interp {k : Nat} {s : State}
    (h : s.ctrl.interp = true → ∀ i ∈ [k - 1, k, k + 1], (Memory.read s.specmem i).isSome = true) :
    ∃ delta, refinement k s = .ok delta := by
  cases hinterp : s.ctrl.interp with
  | false => exact ⟨0, by simp [refinement, hinterp]⟩
  | true => exact refinement_isOk (h hinterp)

/-- The discriminator on magnitudes: the vertex of a proper peak, else 0 (R153). -/
theorem parabola_natCast (m a b c : Nat) :
    let d : Int := 2 * (b : Int) - a - c
    (a ≤ b ∧ c ≤ b ∧ 0 < d → parabola m a b c = Int.tdiv (((c : Int) - a) * 2 ^ (31 - m)) d) ∧
    (¬(a ≤ b ∧ c ≤ b ∧ 0 < d) → parabola m a b c = 0) := by
  simp only [parabola, Nat.cast_le]
  exact ⟨fun h => if_pos h, fun h => if_neg h⟩

/-- Settles O46: the band's reads give the peak, its neighbours the refinement, and completion raises nothing. -/
theorem xtrcCompletes : Obligations.XtrcCompletes := by
  intro s htones hwindow hband hwritten hneighbours
  obtain ⟨mags, hmags⟩ := fetchRun_isOk (sp := .specmem) (written_iff.mp hwritten)
  obtain ⟨k, b, hpeak, htop, hlo, hhi, hk, hmax, hfirst⟩ := peak_of_band hband hmags
  have hone : 1 ≤ binLow s := Nat.le_max_left _ _
  obtain ⟨delta, hdelta⟩ : ∃ delta, refinement k s = .ok delta := by
    refine refinement_isOk_of_interp fun hinterp i hi => ?_
    have hread := written_iff.mp (hneighbours hinterp) (i - (binLow s - 1))
    simp only [List.mem_cons, List.not_mem_nil, or_false] at hi
    rw [Nat.add_sub_cancel' (by omega)] at hread
    exact hread (by omega)
  have hbody := xtrcBody_of_reads hmags (hpeak.symm ▸ hdelta)
  rw [hpeak, htop] at hbody
  refine ⟨_, k, b, delta, exec_xtrc_of_ok hbody htones hwindow hband, hlo, hhi, hk, hmax, hfirst, fun hoff => ?off,
    fun hon => ?on, rfl⟩
  case off =>
    obtain ⟨-, hzero⟩ | ⟨hon, -⟩ := refinement_ok hdelta
    · exact hzero
    · cases hoff.symm.trans hon
  case on =>
    obtain ⟨hoff, -⟩ | ⟨-, a, b', c, ha, hb, hc, rfl⟩ := refinement_ok hdelta
    · cases hoff.symm.trans hon
    · obtain rfl : b' = b := Option.some_injective _ (hb.symm.trans hk)
      exact ⟨a, c, ha, hc, parabola_natCast _ _ _ _⟩

end Sys2Proof.Machine
end

section
/-! PROOFS. ANLZ (spec/42_frequency_extractor.md R157, R158): each pass of its loop leaves what XFRM and XTRC alone
give, whatever the passes before it left. -/

namespace Sys2Proof.Machine

open Sys2Proof.Safety

/-! ### A store over a store of the same length -/

/-- A store leaves the entries above it as they were. -/
theorem Memory.dropBelow_storeFromZero {w : Nat} (m : Memory w) (vs : List (BitVec w)) :
    Memory.dropBelow (Memory.storeFromZero m vs) vs.length = Memory.dropBelow m vs.length := by
  have hnumbered : (numbered 0 vs).filter (fun e => vs.length ≤ e.1) = [] := by
    refine List.filter_eq_nil_iff.mpr fun e he => ?_
    have hlt := (mem_numbered he).2.1
    simp only [decide_eq_true_eq]
    omega
  rw [Memory.storeFromZero, Memory.dropBelow, List.filter_append, hnumbered, List.nil_append, Memory.dropBelow,
    List.filter_filter]
  simp only [Bool.and_self]

/-- A store does not depend on the entries it replaces. -/
theorem Memory.storeFromZero_congr {w : Nat} {m m' : Memory w} {vs : List (BitVec w)}
    (h : Memory.dropBelow m vs.length = Memory.dropBelow m' vs.length) :
    Memory.storeFromZero m vs = Memory.storeFromZero m' vs := by
  rw [Memory.storeFromZero, Memory.storeFromZero, h]

/-! ### One pass -/

/-- `a` is `s` after passes of ANLZ's loop: at most their results differ, and the bins above `W/2` are as before. -/
def AfterPasses (s a : State) : Prop :=
  ∃ (bins : Memory 32) (offset : Word) (bin : BitVec 10) (top estimate : Word) (frames : Memory 32),
    a = { s with
      specmem := bins, toff := offset, peak := bin, peakmag := top, freq := estimate, frmmem := frames } ∧
    Memory.dropBelow bins (windowSize s / 2 + 1) = Memory.dropBelow s.specmem (windowSize s / 2 + 1)

theorem AfterPasses.refl (s : State) : AfterPasses s s := ⟨_, _, _, _, _, _, rfl, rfl⟩

/-- The results that stand in `v`, recorded in `a` as those of frame `j` (R157). -/
def State.recordFrame (a : State) (j : Nat) (v : State) : State :=
  { a with
    specmem := v.specmem, toff := v.toff, peak := v.peak, peakmag := v.peakmag, freq := v.freq
    frmmem := Memory.write a.frmmem j v.freq }

/-- `XFRM j` followed by XTRC takes `s` to `v`. -/
def TransformThenExtract (j : Nat) (s v : State) : Prop := ∃ u, exec (.xfrm j) s = .next u ∧ exec .xtrc u = .next v

/-- XFRM stores bins 0 to `W/2` (R137). -/
theorem stored_spectrum_length {j : Nat} {s : State} {xs : List (BitVec 16)} (hwindow : WindowLegal s)
    (h : fetchRun .smpmem s.smpmem (frameOffset s j) (windowSize s) = .ok xs) :
    ((spectrum (windowLog s) (xs.map BitVec.toInt)).map (BitVec.ofNat 32)).length = windowSize s / 2 + 1 := by
  have hlen : (xs.map BitVec.toInt).length = 2 ^ windowLog s := (List.length_map _).trans (fetchRun_ok h).1
  rw [List.length_map, windowSize]
  exact spectrum_length (Nat.le_trans (by decide) hwindow.1) hlen

/-- The body of XFRM in terms of its reads (R137). -/
theorem xfrmBody_of_reads {j : Nat} {s : State} {xs : List (BitVec 16)}
    (h : fetchRun .smpmem s.smpmem (frameOffset s j) (windowSize s) = .ok xs) : xfrmBody j s = .ok { s with
      specmem := Memory.storeFromZero s.specmem ((spectrum (windowLog s) (xs.map BitVec.toInt)).map (BitVec.ofNat 32))
      toff := BitVec.ofNat 32 (frameOffset s j) } := by
  simp only [xfrmBody, h]

/-- A transform reads nothing that a pass writes, and stores over every bin that a pass writes. -/
theorem xfrmBody_of_afterPasses {j : Nat} {s a u : State} (hwindow : WindowLegal s) (ha : AfterPasses s a)
    (h : xfrmBody j s = .ok u) : xfrmBody j a = .ok { a with specmem := u.specmem, toff := u.toff } ∧
      Memory.dropBelow u.specmem (windowSize s / 2 + 1) = Memory.dropBelow s.specmem (windowSize s / 2 + 1) := by
  obtain ⟨xs, hxs, rfl⟩ := xfrmBody_ok h
  obtain ⟨bins, offset, bin, top, estimate, frames, rfl, hupper⟩ := ha
  rw [← stored_spectrum_length hwindow hxs] at hupper ⊢
  refine ⟨?_, Memory.dropBelow_storeFromZero _ _⟩
  rw [← Memory.storeFromZero_congr hupper]
  exact xfrmBody_of_reads hxs

/-- XTRC reads neither its own results nor FRMMEM nor the flags of the command before it. -/
theorem xtrcBody_congr {u c v : State} (h : xtrcBody u = .ok v)
    (hc : c = { u with
      peak := c.peak, peakmag := c.peakmag, freq := c.freq, frmmem := c.frmmem
      status := c.status, cfgcause := c.cfgcause }) :
    xtrcBody c = .ok { c with peak := v.peak, peakmag := v.peakmag, freq := v.freq } := by
  obtain ⟨mags, delta, hmags, hdelta, rfl⟩ := xtrcBody_ok h
  rw [hc]
  exact xtrcBody_of_reads hmags hdelta

/-- A pass on written samples records what `XFRM j` and XTRC give from the state before the loop (R157). -/
theorem analyseFrame_of_afterPasses {j : Nat} {s a : State} (hlegal : AllLegal s) (hslen : s.slen.toNat ≤ 65536)
    (hj : j < frameCount s) (hwritten : written s.smpmem (frameOffset s j) (windowSize s) = true)
    (ha : AfterPasses s a) : ∃ v, TransformThenExtract j s v ∧ analyseFrame j a = .ok (a.recordFrame j v) ∧
      AfterPasses s (a.recordFrame j v) := by
  obtain ⟨htones, -, hwindow, hhop, -, hband⟩ := hlegal
  obtain ⟨xs, hxs⟩ := fetchRun_isOk (sp := .smpmem) (written_iff.mp hwritten)
  obtain ⟨m, hxfrm, hbins⟩ := xfrmBody_isOk hwindow hxs
  have hfirst := exec_of_body_ok (i := .xfrm j) (judge_xfrm_eq_nothing ⟨hwindow, hhop, hslen⟩ hj) rfl hxfrm
  obtain ⟨v, hxtrc⟩ := xtrcBody_isOk (s := { s with
    specmem := m
    toff := BitVec.ofNat 32 (frameOffset s j)
    status := completed s.status false
    cfgcause := Causes.none }) hwindow hband hbins
  have hsecond := exec_xtrc_of_ok hxtrc htones hwindow hband
  obtain ⟨hpass, hupper⟩ := xfrmBody_of_afterPasses hwindow ha hxfrm
  obtain ⟨_, _, _, _, rfl⟩ := xtrcBody_ok hxtrc
  obtain ⟨_, _, _, _, _, _, rfl, -⟩ := ha
  refine ⟨_, ⟨_, hfirst, hsecond⟩, ?pass, _, _, _, _, _, _, rfl, hupper⟩
  case pass =>
    simp only [analyseFrame, hpass]
    rw [xtrcBody_congr hxtrc]
    · rfl
    · rfl

/-! ### The loop -/

/-- Every frame's samples are written. -/
def FramesWritten (s : State) : Prop :=
  ∀ j, j < frameCount s → written s.smpmem (frameOffset s j) (windowSize s) = true

/-- `t` holds the spectrum, the offset, the peak and the estimate that `v` holds. -/
def SameResults (t v : State) : Prop :=
  t.specmem = v.specmem ∧ t.toff = v.toff ∧ t.peak = v.peak ∧ t.peakmag = v.peakmag ∧ t.freq = v.freq

theorem sameResults_recordFrame (a : State) (j : Nat) (v : State) : SameResults (a.recordFrame j v) v :=
  ⟨rfl, rfl, rfl, rfl, rfl⟩

/-- The loop's frames `j` to `j + count - 1`: each is recorded, the last one's results stay, and no other entry of
FRMMEM changes (R157). -/
theorem analyseFrames_of_afterPasses {count j : Nat} {s a : State} (hlegal : AllLegal s)
    (hslen : s.slen.toNat ≤ 65536) (hwritten : FramesWritten s) (hcount : j + count ≤ frameCount s)
    (ha : AfterPasses s a) : ∃ t, analyseFrames count j a = .ok t ∧
      (∀ i, j ≤ i → i < j + count → ∃ v, TransformThenExtract i s v ∧ Memory.read t.frmmem i = some v.freq ∧
        (i + 1 = j + count → SameResults t v)) ∧
      (∀ i, i < j ∨ j + count ≤ i → Memory.read t.frmmem i = Memory.read a.frmmem i) ∧ (count = 0 → t = a) := by
  induction count generalizing j a with
  | zero => exact ⟨a, rfl, fun i _ _ => by omega, fun _ _ => rfl, fun _ => rfl⟩
  | succ count ih =>
    obtain ⟨v, hv, hpass, hafter⟩ := analyseFrame_of_afterPasses hlegal hslen (by omega) (hwritten j (by omega)) ha
    obtain ⟨t, hloop, hframes, hothers, hdone⟩ := ih (j := j + 1) (by omega) hafter
    refine ⟨t, by simp only [analyseFrames, hpass, hloop], fun i hlo hhi => ?recorded, fun i hi => ?others, by simp⟩
    case recorded =>
      obtain rfl | hlater := Nat.eq_or_lt_of_le hlo
      · refine ⟨v, hv, (hothers j (by omega)).trans (Memory.read_write_same ..), fun hlast => ?_⟩
        rw [hdone (by omega)]
        exact sameResults_recordFrame a j v
      · obtain ⟨w, hw, hread, hlast⟩ := hframes i hlater (by omega)
        exact ⟨w, hw, hread, fun hi => hlast (by omega)⟩
    case others => exact (hothers i (by omega)).trans (Memory.read_write_other _ _ (by omega))

/-! ### The statements -/

theorem exec_anlz_of_loop {s t : State} (hlegal : AllLegal s) (hslen : s.slen.toNat ≤ 65536)
    (h : analyseFrames (frameCount s) 0 s = .ok t) : exec .anlz s = .next { t with
      nfrm := BitVec.ofNat 32 (frameCount s)
      status := completed t.status false
      cfgcause := Causes.none } :=
  exec_of_body_ok (u := { t with nfrm := BitVec.ofNat 32 (frameCount s) })
    (judge_anlz_eq_nothing hlegal hslen) rfl (by simp only [bodyOf, anlzBody, h])

/-- Settles O47: the loop records each frame as XFRM and XTRC give it from the state before the loop. -/
theorem anlzCompletes : Obligations.AnlzCompletes := by
  intro s hlegal hslen hwritten
  obtain ⟨t, hloop, hframes, hothers, hdone⟩ := analyseFrames_of_afterPasses (count := frameCount s) (j := 0)
    hlegal hslen hwritten (by omega) (AfterPasses.refl s)
  refine ⟨_, exec_anlz_of_loop hlegal hslen hloop, ?frame, fun j hj => ?recorded, fun j hj => ?above,
    fun hzero => ?none⟩
  case frame => rw [analyseFrames_frame hloop]
  case recorded =>
    obtain ⟨v, ⟨u, hxfrm, hxtrc⟩, hread, hlast⟩ := hframes j (Nat.zero_le j) (by omega)
    refine ⟨u, v, hxfrm, hxtrc, hread, fun hj => ?_⟩
    obtain ⟨hspec, htoff, hpeak, htop, hfreq⟩ := hlast (by omega)
    exact ⟨htoff, hpeak, htop, hfreq, fun k => congrArg (Memory.read · k) hspec⟩
  case above => exact hothers j (by omega)
  case none =>
    rw [hdone hzero]
    exact ⟨rfl, rfl, rfl, rfl, rfl, rfl⟩

/-- Settles O48: with no frame the loop makes no pass. -/
theorem anlzShortBuffer : Obligations.AnlzShortBuffer := by
  intro s hlegal hshort
  have ⟨_, _, hwindow, _, hfits, _⟩ := hlegal
  have hsize := windowSize_le hwindow
  have hzero : frameCount s = 0 := if_pos hshort
  refine ⟨hfits, ?_⟩
  rw [exec_anlz_of_loop (t := s) hlegal (hshort.le.trans (hsize.trans (by decide))) (by rw [hzero]; rfl), hzero]
  rfl

end Sys2Proof.Machine
end

section
/-! PROOFS. Bit windows and the frames in them (spec/43_decoder.md R171, R172). -/

namespace Sys2Proof.Machine

/-! ### Windows -/

/-- The window that contains a timestamp is its quotient by `SPB`. -/
theorem mem_window_iff {spb b t : Nat} (hspb : spb ≠ 0) : (b * spb ≤ t ∧ t < (b + 1) * spb) ↔ b = t / spb := by
  rw [eq_comm, Nat.div_eq_iff (Nat.pos_of_ne_zero hspb), Nat.add_mul]
  omega

/-- The ceiling counts the started windows (R171). -/
theorem lt_bitCount_iff {s : State} (hspb : s.spb.toNat ≠ 0) {b : Nat} :
    b < bitCount s ↔ b * s.spb.toNat < s.slen.toNat := by
  rw [bitCount, ceilDiv, ← Nat.succ_le_iff, Nat.le_div_iff_mul_le (Nat.pos_of_ne_zero hspb), Nat.succ_mul]
  omega

theorem bitCount_eq_zero_iff {s : State} (hspb : s.spb.toNat ≠ 0) : bitCount s = 0 ↔ s.slen.toNat = 0 := by
  have hfirst := lt_bitCount_iff hspb (b := 0)
  omega

/-- Settles O49: a window is started iff its first sample is in the buffer, and a sample's window is its quotient. -/
theorem bitPositions : Obligations.BitPositions := by
  refine fun s hspb => ⟨rfl, bitCount_eq_zero_iff hspb, fun b => lt_bitCount_iff hspb, fun t ht => ?_⟩
  have hlow : t / s.spb.toNat * s.spb.toNat ≤ t := Nat.div_mul_le_self _ _
  exact ⟨t / s.spb.toNat, ⟨(lt_bitCount_iff hspb).mpr (hlow.trans_lt ht), (mem_window_iff hspb).mpr rfl⟩,
    fun b ⟨_, hwindow⟩ => (mem_window_iff hspb).mp hwindow⟩

/-! ### Frames in windows -/

theorem mem_framesInWindow_iff_div {s : State} (hspb : s.spb.toNat ≠ 0) {b j : Nat} :
    j ∈ framesInWindow s b ↔ j < s.nfrm.toNat ∧ b = frameCentre s j / s.spb.toNat := by
  rw [mem_framesInWindow, mem_window_iff hspb]

theorem not_mem_framesInWindow_of_beyond {s : State} {b j : Nat} (hcentre : bitCount s * s.spb.toNat ≤ frameCentre s j)
    (hb : b < bitCount s) : j ∉ framesInWindow s b := by
  intro hj
  obtain ⟨-, -, hinside⟩ := mem_framesInWindow.mp hj
  have hend : (b + 1) * s.spb.toNat ≤ bitCount s * s.spb.toNat := Nat.mul_le_mul_right _ hb
  exact Nat.not_lt.mpr (hend.trans hcentre) hinside

/-- The centre of a frame that exists is a sample of the buffer (R131, R172). -/
theorem frameCentre_lt {s : State} {j : Nat} (hj : j < frameCount s) : frameCentre s j < s.slen.toNat := by
  have hinside := frameOffset_add_le hj
  have hpos := windowSize_pos s
  rw [frameCentre]
  omega

theorem classify_filter_valid (fcenter : Nat) (frames : List Word) :
    classify fcenter (frames.filter frameValid) = classify fcenter frames := by
  simp only [classify, List.filter_filter, Bool.and_self]

/-- Settles O50: a frame's window is the quotient of its centre, and the classifier drops invalid frames. -/
theorem frameMembership : Obligations.FrameMembership := fun _ _ _ hspb =>
  ⟨mem_framesInWindow, mem_framesInWindow_iff_div hspb, not_mem_framesInWindow_of_beyond, fun _ => frameCentre_lt,
    fun fcenter frames => (classify_filter_valid fcenter frames).symm⟩

end Sys2Proof.Machine
end

section
/-! PROOFS. The classifier (spec/43_decoder.md R173 to R175). -/

namespace Sys2Proof.Machine

open Sys2Proof.Safety

/-! ### Equal frames -/

/-- Frames of one valid word give the bit of that word's frequency, however many there are (R174). -/
theorem classify_replicate {fcenter n : Nat} {w : Word} (hn : 0 < n) (hvalid : frameValid w = true) :
    classify fcenter (List.replicate n w) = if fcenter < frameFrequency w then 1 else 0 := by
  have hcount : n ≠ 0 := Nat.ne_of_gt hn
  simp only [classify, List.filter_replicate, hvalid, if_true, List.length_replicate, hcount, if_false,
    List.map_replicate, List.sum_replicate, smul_eq_mul, Nat.mul_lt_mul_left hn]

theorem frameValid_or (f : Word) : frameValid (0x80000000 ||| f) = true := by
  simp [frameValid]

/-- VALID is no bit of the frequency (R43). -/
theorem frameFrequency_or {f : Word} (hf : f.toNat < 2 ^ 31) : frameFrequency (0x80000000 ||| f) = f.toNat := by
  have hlow : (0x80000000 : Word).extractLsb' 0 31 = 0#31 := by decide
  rw [frameFrequency, BitVec.extractLsb'_or, hlow, BitVec.zero_or, BitVec.extractLsb'_toNat, Nat.shiftRight_zero,
    Nat.mod_eq_of_lt hf]

theorem classify_replicate_or {fcenter n : Nat} {f : Word} (hn : 0 < n) (hf : f.toNat < 2 ^ 31) :
    classify fcenter (List.replicate n (0x80000000 ||| f)) = if fcenter < f.toNat then 1 else 0 := by
  rw [classify_replicate hn (frameValid_or f), frameFrequency_or hf]

/-- Settles O52: F1 lies above FCENTER, F0 below it, and the midpoint does not exceed itself. -/
theorem tonesClassifyAsTheirBits : Obligations.TonesClassifyAsTheirBits := by
  intro s n htones hn
  obtain ⟨-, -, -, hrange, -⟩ := tonesAreDerived s
  obtain ⟨-, -, -, hzero, hone, hnyquist⟩ := hrange htones
  refine ⟨?one, ?zero, ?midpoint⟩
  case one => rw [classify_replicate_or hn hnyquist, if_pos hone]
  case zero => rw [classify_replicate_or hn (by omega), if_neg (Nat.not_lt_of_gt hzero)]
  case midpoint => rw [classify_replicate_or hn (by omega), if_neg (Nat.lt_irrefl _)]

end Sys2Proof.Machine
end

section
/-! PROOFS. DEC on written frames (spec/43_decoder.md R173 to R176, spec/44_control.md R196). -/

namespace Sys2Proof.Machine

open Sys2Proof.Safety

/-! ### The votes of one window -/

/-- The vote of a frame word: its frequency, if it is valid (R173). -/
def frameVote (v : Word) : Option Nat := if frameValid v then some (frameFrequency v) else none

theorem frameVote_eq (v : Word) : frameVote v = if v.toNat < 2 ^ 31 then none else some (v.toNat % 2 ^ 31) := by
  have hfields := toNat_eq_valid_frequency v
  have hfrequency : frameFrequency v < 2 ^ 31 := BitVec.isLt _
  cases hvalid : frameValid v with
  | false =>
    have hlow : v.toNat < 2 ^ 31 := by rwa [hfields, hvalid, Bool.toNat_false, Nat.mul_zero, Nat.zero_add]
    simp only [frameVote, hvalid, Bool.false_eq_true, if_false, if_pos hlow]
  | true =>
    rw [hvalid, Bool.toNat_true] at hfields
    have hhigh : ¬v.toNat < 2 ^ 31 := by omega
    have hmod : frameFrequency v = v.toNat % 2 ^ 31 := by omega
    simp only [frameVote, hvalid, if_true, if_neg hhigh, hmod]

theorem votes_eq_filterMap (s : State) (b : Nat) : votes s b =
    (framesInWindow s b).filterMap fun j => (Memory.read s.frmmem j).bind frameVote := by
  refine List.filterMap_congr fun j _ => ?_
  cases Memory.read s.frmmem j with
  | none => rfl
  | some v => exact (frameVote_eq v).symm

section Reads

variable {s : State} {b : Nat} {frames : List Word}
  (hframes : fetchAll .frmmem s.frmmem (framesInWindow s b) = .ok frames)

include hframes

/-- The votes of a window are the frequencies of the valid ones among the frames read for it. -/
theorem votes_of_reads : votes s b = (frames.filter frameValid).map frameFrequency :=
  calc votes s b
      = ((framesInWindow s b).map (Memory.read s.frmmem)).filterMap (·.bind frameVote) := by
        rw [votes_eq_filterMap, List.filterMap_map]
        rfl
    _ = frames.filterMap frameVote := by
        rw [fetchAll_ok_iff.mp hframes, List.filterMap_map]
        rfl
    _ = (frames.filter frameValid).map frameFrequency := by
        rw [← List.filterMap_eq_map, List.filterMap_filter]
        rfl

theorem bitCode_of_reads : bitCode s b = classify s.fcenter.toNat frames := by
  simp only [bitCode, classify, votes_of_reads hframes, List.map_eq_nil_iff, List.length_eq_zero_iff, List.length_map]

end Reads

/-! ### The counts -/

theorem incompleteCount_map (code : Nat → BitVec 2) (bs : List Nat) :
    incompleteCount (bs.map code) = (bs.filter fun b => code b == 2).length := by
  induction bs with
  | nil => rfl
  | cons b bs ih =>
    rw [List.map_cons, incompleteCount, List.filter_cons, ih]
    simp only [beq_iff_eq]
    split <;> rfl

theorem firstIncomplete_map_range' (code : Nat → BitVec 2) (start len : Nat) :
    firstIncomplete start ((List.range' start len).map code) =
      ((List.range' start len).filter fun b => code b == 2).head?.elim 0xFFFFFFFF (BitVec.ofNat 32) := by
  induction len generalizing start with
  | zero => rfl
  | succ len ih =>
    rw [List.range'_succ, List.map_cons, firstIncomplete, List.filter_cons, ih]
    simp only [beq_iff_eq]
    split <;> rfl

/-- The positions whose window has no vote (R175). -/
def incompletePositions (s : State) : List Nat := (List.range (bitCount s)).filter fun b => bitCode s b == 2

theorem incompletePositions_length_le (s : State) : (incompletePositions s).length ≤ bitCount s :=
  (List.length_filter_le _ _).trans_eq List.length_range

/-! ### The body -/

/-- The results DEC writes (R176). -/
def State.decoded (s : State) : State :=
  { s with
    rxmem := Memory.storeFromZero s.rxmem ((List.range (bitCount s)).map (bitCode s))
    nbits := BitVec.ofNat 32 (bitCount s)
    errcnt := BitVec.ofNat 32 (incompletePositions s).length
    errpos := (incompletePositions s).head?.elim 0xFFFFFFFF (BitVec.ofNat 32) }

theorem toNat_decoded_errcnt {s : State} (hspb : s.spb.toNat ≠ 0) : s.decoded.errcnt.toNat =
    (incompletePositions s).length := by
  have hbad := (incompletePositions_length_le s).trans (bitCount_le s hspb)
  exact (BitVec.toNat_ofNat ..).trans (Nat.mod_eq_of_lt (hbad.trans_lt s.slen.isLt))

theorem read_decoded_rxmem (s : State) (b : Nat) : Memory.read s.decoded.rxmem b =
    if b < bitCount s then some (bitCode s b) else Memory.read s.rxmem b := by
  rw [State.decoded, Memory.read_storeFromZero, List.length_map, List.length_range]
  split
  case isTrue hb => rw [List.getElem?_map, List.getElem?_range hb, Option.map_some]
  case isFalse => rfl

section Written

variable {s : State} (hwritten : written s.frmmem 0 s.nfrm.toNat = true)

include hwritten

theorem decodePosition_of_written (b : Nat) : decodePosition s b = .ok (bitCode s b) := by
  obtain ⟨frames, hframes⟩ : ∃ frames, fetchAll .frmmem s.frmmem (framesInWindow s b) = .ok frames := by
    refine fetchAll_isOk fun j hj => ?_
    obtain ⟨hbelow, -⟩ := mem_framesInWindow.mp hj
    have hread := written_iff.mp hwritten j hbelow
    rwa [Nat.zero_add] at hread
  exact decodePosition_ok_iff.mpr ⟨frames, hframes, bitCode_of_reads hframes⟩

theorem decodePositions_of_written (bs : List Nat) : decodePositions s bs = .ok (bs.map (bitCode s)) := by
  rw [decodePositions_ok_iff, List.forall₂_map_right_iff, List.forall₂_same]
  exact fun b _ => decodePosition_of_written hwritten b

theorem decBody_of_written : decBody s = .ok s.decoded := by
  have hfirst := firstIncomplete_map_range' (bitCode s) 0 (bitCount s)
  rw [← List.range_eq_range'] at hfirst
  simp only [decBody, decodePositions_of_written hwritten, incompleteCount_map, hfirst]
  rfl

end Written

/-! ### The command -/

/-- A completion that raised nothing records whether positions are incomplete (R196). -/
theorem State.complete_nothing_incomplete (s : State) (incomplete : Bool) : s.complete .nothing incomplete = { s with
    status := completed s.status incomplete
    cfgcause := Causes.none
    esticky := { s.esticky with incomplete := s.esticky.incomplete || incomplete } } := by
  simp only [State.complete, Raised.isConfiguration, Raised.isCommand, Raised.causes, Bool.or_false, completed]

theorem judge_dec_eq_nothing {s : State} (hlegal : AllLegal s) (hslen : s.slen.toNat ≤ 65536)
    (hnfrm : s.nfrm.toNat ≤ 65536) : judge .dec s = .nothing := by
  have hcap : ¬(65536 < s.slen.toNat ∨ 65536 < s.nfrm.toNat) := by omega
  exact judge_eq_nothing_of_allLegal hlegal (decide_eq_false hcap) rfl

theorem exec_dec_of_written {s : State} (hlegal : AllLegal s) (hslen : s.slen.toNat ≤ 65536)
    (hnfrm : s.nfrm.toNat ≤ 65536) (hwritten : written s.frmmem 0 s.nfrm.toNat = true) :
    exec .dec s = .next (s.decoded.complete .nothing (decide (0 < s.decoded.errcnt.toNat))) :=
  runCommand_of_ok (judge_dec_eq_nothing hlegal hslen hnfrm) (decBody_of_written hwritten)

/-- Settles O51: the reads of a window give its votes, the body stores their codes, and completion records whether one
is 2. -/
theorem decCompletes : Obligations.DecCompletes := by
  intro s hlegal hslen hnfrm hwritten bad
  have ⟨_, hspb, _⟩ := hlegal
  refine ⟨_, exec_dec_of_written hlegal hslen hnfrm hwritten, ?frame, fun b hb => ?below, fun b hb => ?above⟩
  case frame =>
    have hbad : incompletePositions s = bad := rfl
    rw [State.complete_nothing_incomplete, toNat_decoded_errcnt hspb, State.decoded, hbad]
    cases bad <;> rfl
  case below => exact (read_decoded_rxmem s b).trans (if_pos hb)
  case above => exact (read_decoded_rxmem s b).trans (if_neg (Nat.not_lt.mpr hb))

end Sys2Proof.Machine
end

section
/-! PROOFS. DEMOD as ANLZ followed by DEC (spec/43_decoder.md R177), and the empty buffer (R178). -/

namespace Sys2Proof.Machine

open Sys2Proof.Safety

/-! ### The decoder after a completion -/

theorem decodePositions_complete (s : State) (r : Raised) (i : Bool) (bs : List Nat) :
    decodePositions (s.complete r i) bs = decodePositions s bs := by
  induction bs with
  | nil => rfl
  | cons b bs ih =>
    have hposition : decodePosition (s.complete r i) b = decodePosition s b := rfl
    rw [decodePositions, decodePositions, hposition, ih]

/-- The decoder reads and writes no flag. -/
theorem decBody_complete (s : State) (r : Raised) (i : Bool) :
    decBody (s.complete r i) = (decBody s).map (State.complete r i) := by
  have hcount : bitCount (s.complete r i) = bitCount s := rfl
  rw [decBody, decodePositions_complete, hcount, decBody]
  cases decodePositions s (List.range (bitCount s)) <;> rfl

/-- A completion that raised nothing leaves no trace under the next one. -/
theorem State.complete_complete_nothing (s : State) (i : Bool) :
    (s.complete .nothing false).complete .nothing i = s.complete .nothing i := by
  simp only [State.complete, Raised.isConfiguration, Raised.isCommand, Raised.causes, Bool.or_false]

/-! ### The state ANLZ leaves -/

section AfterAnlz

variable {s u : State} (hlegal : AllLegal s) (hslen : s.slen.toNat ≤ 65536) (hanlz : exec .anlz s = .next u)

include hlegal hslen hanlz

theorem anlzBody_of_exec : ∃ v, anlzBody s = .ok v ∧ u = v.complete .nothing false := by
  have hchecks := judge_anlz_eq_nothing hlegal hslen
  obtain ⟨-, v, hbody, rfl⟩ | ⟨c, hraised, -⟩ | ⟨hraised, -⟩ := runCommand_next hanlz
  · exact ⟨v, hbody, rfl⟩
  · cases hchecks.symm.trans hraised
  · cases hchecks.symm.trans hraised

/-- ANLZ keeps what DEC checks and leaves the number of frames in NFRM (R157). -/
theorem legal_after_anlz : AllLegal u ∧ u.slen.toNat ≤ 65536 ∧ u.nfrm.toNat = frameCount s := by
  obtain ⟨v, hbody, rfl⟩ := anlzBody_of_exec hlegal hslen hanlz
  obtain ⟨w, hloop, rfl⟩ := anlzBody_ok hbody
  have hframes := (frameCount_le s).trans_lt s.slen.isLt
  rw [analyseFrames_frame hloop]
  exact ⟨hlegal, hslen, (BitVec.toNat_ofNat ..).trans (Nat.mod_eq_of_lt hframes)⟩

theorem judge_dec_after_anlz : judge .dec u = .nothing := by
  obtain ⟨hlegalu, hslenu, hnfrm⟩ := legal_after_anlz hlegal hslen hanlz
  exact judge_dec_eq_nothing hlegalu hslenu (hnfrm.trans_le ((frameCount_le s).trans hslen))

/-- DEMOD does what DEC does after ANLZ, whether DEC's reads succeed or stop (R177). -/
theorem exec_demod_eq_exec_dec : exec .demod s = exec .dec u := by
  have hchecks : judge .demod s = .nothing :=
    judge_eq_nothing_of_allLegal hlegal (decide_eq_false (Nat.not_lt.mpr hslen)) rfl
  have hchecksDec := judge_dec_after_anlz hlegal hslen hanlz
  obtain ⟨v, hbody, rfl⟩ := anlzBody_of_exec hlegal hslen hanlz
  have hdemod : demodBody s = decBody v := by simp only [demodBody, hbody]
  have hdec := decBody_complete v .nothing false
  cases hdecoded : decBody v with
  | error f =>
    rw [hdecoded] at hdemod hdec
    exact (exec_of_body_error hchecks hdemod).trans (exec_of_body_error hchecksDec hdec).symm
  | ok w =>
    rw [hdecoded] at hdemod hdec
    have hsame := w.complete_complete_nothing (decide (0 < w.errcnt.toNat))
    exact (runCommand_of_ok hchecks hdemod).trans
      ((runCommand_of_ok (decodes := true) hchecksDec hdec).trans (congrArg Host.Outcome.next hsame)).symm

end AfterAnlz

/-! ### The statements -/

/-- Settles O53: DEC runs on the state ANLZ leaves, where the frames below NFRM are those ANLZ recorded. -/
theorem demodIsAnlzThenDec : Obligations.DemodIsAnlzThenDec := by
  refine ⟨fun s u => exec_demod_eq_exec_dec, fun s hlegal hslen hwritten => ?_⟩
  obtain ⟨u, hanlz, hframe, hrecorded, -, -⟩ := anlzCompletes s hlegal hslen hwritten
  obtain ⟨hlegalu, hslenu, hnfrm⟩ := legal_after_anlz hlegal hslen hanlz
  have hframes : written u.frmmem 0 u.nfrm.toNat = true := by
    refine written_iff.mpr fun j hj => ?_
    obtain ⟨_, _, -, -, hread, -⟩ := hrecorded j (hj.trans_eq hnfrm)
    rw [Nat.zero_add, hread, Option.isSome_some]
  have hdec := exec_dec_of_written hlegalu hslenu (hnfrm.trans_le ((frameCount_le s).trans hslen)) hframes
  refine ⟨u, _, hanlz, hdec, (exec_demod_eq_exec_dec hlegal hslen hanlz).trans hdec, ?_⟩
  rw [State.complete_nothing_incomplete, hframe]
  rfl

/-- With no position DEC writes no memory (R178). -/
theorem decoded_of_empty {s : State} (h : bitCount s = 0) :
    s.decoded = { s with nbits := 0, errcnt := 0, errpos := 0xFFFFFFFF } := by
  have hbad : incompletePositions s = [] := by rw [incompletePositions, h, List.range_zero, List.filter_nil]
  rw [State.decoded, h, hbad, List.range_zero, List.map_nil, Memory.storeFromZero_nil]
  rfl

theorem exec_dec_of_empty {s : State} (hlegal : AllLegal s) (hslen : s.slen.toNat = 0) (hnfrm : s.nfrm = 0) :
    exec .dec s = .next { s with
      nbits := 0, errcnt := 0, errpos := 0xFFFFFFFF
      status := completed s.status false, cfgcause := Causes.none } := by
  have ⟨_, hspb, _⟩ := hlegal
  have hframes : s.nfrm.toNat = 0 := by rw [hnfrm]; rfl
  have hwritten : written s.frmmem 0 s.nfrm.toNat = true := by rw [hframes]; rfl
  rw [exec_dec_of_written hlegal (by omega) (by omega) hwritten,
    decoded_of_empty ((bitCount_eq_zero_iff hspb).mpr hslen)]
  exact congrArg Host.Outcome.next (State.complete_nothing _)

/-- Settles O54: ANLZ finds no frame and writes NFRM alone; DEC finds no position and writes its three results alone. -/
theorem emptyBufferDecodesToNothing : Obligations.EmptyBufferDecodesToNothing := by
  intro s hlegal hempty
  have hslen : s.slen.toNat ≤ 65536 := by omega
  obtain ⟨-, hanlz⟩ := anlzShortBuffer s hlegal (hempty.trans_lt (windowSize_pos s))
  have hdec := exec_dec_of_empty hlegal hempty
    (s := { s with nfrm := 0, status := completed s.status false, cfgcause := Causes.none }) rfl
  exact ⟨(exec_demod_eq_exec_dec hlegal hslen hanlz).trans hdec, _, hanlz, hdec⟩

end Sys2Proof.Machine
end

section
/-! PROOFS. How every command ends, and what completion writes (spec/44_control.md R191, R194, R196). -/

namespace Sys2Proof.Machine

open Sys2Proof.Safety

/-! ### What completion records of the error raised -/

theorem Raised.isConfiguration_iff {r : Raised} : r.isConfiguration = true ↔ ∃ c, r = .configuration c := by
  cases r <;> simp [Raised.isConfiguration]

theorem Raised.isCommand_iff {r : Raised} : r.isCommand = true ↔ r = .command := by
  cases r <;> simp [Raised.isCommand]

theorem Raised.causes_of_configuration {r : Raised} {c : Causes} (h : r = .configuration c) : r.causes = c := by
  rw [h, Raised.causes]

theorem Raised.causes_of_not_configuration {r : Raised} (h : r.isConfiguration = false) : r.causes = Causes.none := by
  cases r with
  | configuration c => cases h
  | nothing | command => rfl

theorem Raised.not_configuration_and_command (r : Raised) :
    ¬(r.isConfiguration = true ∧ r.isCommand = true) := by
  cases r <;> simp [Raised.isConfiguration, Raised.isCommand]

/-! ### The end of a command -/

/-- A command that answers completes, from a state with its STATUS and ESTICKY, with what its checks raised; only a
decoder's body that ran leaves bit positions incomplete. -/
theorem exec_next {i : Instr} {s t : State} (h : exec i s = .next t) :
    ∃ (u : State) (incomplete : Bool), t = u.complete (judge i s) incomplete ∧ u.status = s.status ∧
      u.esticky = s.esticky ∧
      (incomplete = true ↔ judge i s = .nothing ∧ (i = .dec ∨ i = .demod) ∧ 0 < u.errcnt.toNat) := by
  have hdecodes : decodesBits i = true ↔ i = .dec ∨ i = .demod := by cases i <;> simp [decodesBits]
  rw [exec_eq_runCommand] at h
  obtain ⟨hjudge, u, hbody, rfl⟩ | ⟨c, hjudge, rfl⟩ | ⟨hjudge, rfl⟩ := runCommand_next h
  · refine ⟨u, _, by rw [hjudge], by rw [bodyOf_frame hbody], by rw [bodyOf_frame hbody], ?_⟩
    rw [Bool.and_eq_true, hdecodes, decide_eq_true_iff, and_iff_right hjudge]
  · exact ⟨s, false, by rw [hjudge], rfl, rfl, by simp [hjudge]⟩
  · exact ⟨s, false, by rw [hjudge], rfl, rfl, by simp [hjudge]⟩

/-- Settles O21: each flag completion writes is read off what the checks raised. -/
theorem completionRecordsErrors : Obligations.CompletionRecordsErrors := by
  refine ⟨fun i s t h => ?command, fun s => ?illegal⟩
  case command =>
    obtain ⟨u, incomplete, rfl, hstatus, hesticky, hincomplete⟩ := exec_next h
    refine ⟨rfl, rfl, by rw [State.complete_status, hstatus], Raised.isConfiguration_iff,
      fun _ => Raised.causes_of_configuration, Raised.causes_of_not_configuration, Raised.isCommand_iff, hincomplete,
      hesticky ▸ rfl, Raised.not_configuration_and_command _, fun hset => ?quiet⟩
    rw [State.complete_status, (hincomplete.mp hset).1]
    exact ⟨rfl, rfl⟩
  case illegal => simp [execIllegal, State.complete, Raised.isConfiguration, Raised.isCommand, Raised.causes]

/-- Settles O26: NOP checks nothing and has an empty body; under OPC 0 the decoder requires ARG = 0. -/
theorem nopCompletes : Obligations.NopCompletes := by
  refine ⟨fun s => exec_of_body_ok (judge_nothing_iff.mpr ⟨?_, rfl⟩) rfl rfl, fun arg harg => ?_⟩
  · simp [heldCauses, Causes.inter, relevantSet, capCondition, Causes.none]
  · have hlt := arg.isLt
    have hne : arg.toNat ≠ 0 := fun h => harg (BitVec.eq_of_toNat_eq h)
    have hword : (BitVec.ofNat 32 arg.toNat).toNat = arg.toNat :=
      (BitVec.toNat_ofNat ..).trans (Nat.mod_eq_of_lt (by omega))
    rw [exists_illegal_iff_toNat, hword, Nat.div_eq_of_lt hlt, Nat.mod_eq_of_lt hlt]
    exact .inr ⟨List.mem_cons_self, hne⟩

end Sys2Proof.Machine
end

section
/-! PROOFS. The causes CHECK, XTRC, ANLZ, DEC and DEMOD check (spec/44_control.md R192, R193, R195). -/

namespace Sys2Proof.Machine

open Sys2Proof.Safety

/-! ### What the checks record -/

/-- Where a command raises no ConfigurationError it holds no cause, so CFGCAUSE receives the causes held either way. -/
theorem causes_judge (i : Instr) (s : State) : (judge i s).causes = heldCauses i s := by
  cases hjudge : judge i s with
  | nothing => exact (judge_nothing_iff.mp hjudge).1.symm
  | configuration c => exact (judge_configuration hjudge).1
  | command => exact (judge_command hjudge).1.symm

theorem isConfiguration_judge_iff {i : Instr} {s : State} :
    (judge i s).isConfiguration = true ↔ (judge i s).causes ≠ Causes.none := by
  refine ⟨fun h => ?_, fun hne => Bool.eq_true_of_not_eq_false (mt Raised.causes_of_not_configuration hne)⟩
  obtain ⟨c, hjudge⟩ := Raised.isConfiguration_iff.mp h
  rw [Raised.causes_of_configuration hjudge]
  exact (judge_configuration hjudge).2

/-- CHECK, ANLZ, DEC and DEMOD check all nine predicates (R193). -/
theorem heldCauses_of_allNine {i : Instr} {s : State} (h : relevantSet i = allNine) :
    heldCauses i s = { cfgCauses s with cap := capCondition i s } := by
  simp only [heldCauses, Causes.inter, h, allNine, Bool.and_true]

theorem heldCauses_xtrc (s : State) : heldCauses .xtrc s =
    { cfgCauses s with spb0 := false, hop0 := false, winspb := false, cap := false } := by
  simp only [heldCauses, Causes.inter, relevantSet, Causes.none, capCondition, Bool.and_true, Bool.and_false]

/-! ### The predicates that need a legal window -/

/-- WINSPB and BAND are judged only where WLOG does not hold (R192). -/
theorem windowGuard_iff {s : State} {p : Prop} [Decidable p] :
    (!windowIllegal s && decide p) = true ↔ WindowLegal s ∧ p := by
  rw [Bool.and_eq_true, Bool.not_eq_true', windowIllegal_eq_false_iff, decide_eq_true_iff]

theorem not_of_windowGuard {s : State} {p : Prop} [Decidable p] (hwindow : WindowLegal s)
    (h : (!windowIllegal s && decide p) = false) : ¬p :=
  fun hp => Bool.eq_false_iff.mp h (windowGuard_iff.mpr ⟨hwindow, hp⟩)

/-- The low end of the band as R192 writes it. -/
theorem binLow_eq (s : State) : binLow s =
    max 1 ((s.fcenter.toNat - s.fdev.toNat - s.fmargin.toNat + 2 ^ (32 - s.wlog2.toNat) - 1) /
      2 ^ (32 - s.wlog2.toNat)) := by
  rw [binLow, bandLow_eq, Nat.shiftRight_eq_div_pow]
  rfl

/-- The high end of the band as R192 writes it. -/
theorem binHigh_eq (s : State) : binHigh s = min (2 ^ s.wlog2.toNat / 2 - 1)
    ((s.fcenter.toNat + s.fdev.toNat + s.fmargin.toNat) / 2 ^ (32 - s.wlog2.toNat)) := by
  rw [binHigh, Nat.shiftRight_eq_div_pow]
  rfl

/-! ### CHECK -/

/-- CHECK has an empty body, so it completes whatever its checks raise (R195). -/
theorem exec_check (s : State) : exec .check s = .next (s.complete (judge .check s) false) := by
  rw [exec_eq_runCommand]
  cases hjudge : judge .check s with
  | nothing => exact runCommand_of_ok hjudge rfl
  | configuration c => exact runCommand_of_configuration hjudge
  | command => exact runCommand_of_command hjudge

theorem judge_check_ne_command (s : State) : judge .check s ≠ .command := fun h => by
  obtain ⟨j, hxfrm, -⟩ := operandIllegal_xfrm (judge_command h).2
  cases hxfrm

/-- Settles O23: CHECK holds the nine predicates and its capacity condition, which it records. -/
theorem checkReportsEveryCause : Obligations.CheckReportsEveryCause := by
  intro s
  have hcauses : (s.complete (judge .check s) false).cfgcause = { cfgCauses s with cap := capCondition .check s } :=
    (causes_judge .check s).trans (heldCauses_of_allNine rfl)
  refine ⟨_, exec_check s, s.complete_eq_update _ _, rfl, rfl, rfl,
    Bool.eq_false_iff.mpr (mt Raised.isCommand_iff.mp (judge_check_ne_command s)), isConfiguration_judge_iff, ?_⟩
  rw [hcauses, ← binLow_eq, ← binHigh_eq]
  refine ⟨decide_eq_true_iff, decide_eq_true_iff, decide_eq_true_iff, decide_eq_true_iff, decide_eq_true_iff,
    decide_eq_true_iff, decide_eq_true_iff, windowGuard_iff, windowGuard_iff, decide_eq_true_iff, fun hfc0 => ?fdge,
    fun hspb0 hwlog => ?winspb⟩
  case fdge => exact decide_eq_true ((of_decide_eq_true hfc0).trans_le (Nat.zero_le _))
  case winspb =>
    exact windowGuard_iff.mpr
      ⟨windowIllegal_eq_false_iff.mp hwlog, (of_decide_eq_true hspb0).trans_lt (windowSize_pos s)⟩

/-- Settles O24: a legal configuration within the capacities holds no cause of CHECK, of DEMOD or of a MOD that fits. -/
theorem checkPassesWhenLegal : Obligations.CheckPassesWhenLegal := by
  intro s hlegal hslen hnfrm
  have hcap : ¬(65536 < s.slen.toNat ∨ 65536 < s.nfrm.toNat) := by omega
  refine ⟨exec_of_body_ok (judge_eq_nothing_of_allLegal hlegal (decide_eq_false hcap) rfl) rfl rfl,
    judge_eq_nothing_of_allLegal hlegal (decide_eq_false (Nat.not_lt.mpr hslen)) rfl, fun n hn hfits => ?_⟩
  obtain ⟨htones, hspb, -⟩ := hlegal
  exact (judge_mod_eq_nothing_iff n s).mpr ⟨htones, hspb, hn, hfits⟩

/-! ### XTRC, ANLZ, DEC and DEMOD -/

section Legal

variable {s : State}

/-- The tones are legal where the four predicates on them are false (R192). -/
theorem tonesLegal_of_causes (hfc0 : (cfgCauses s).fc0 = false) (hfd0 : (cfgCauses s).fd0 = false)
    (hfdge : (cfgCauses s).fdge = false) (hnyq : (cfgCauses s).nyq = false) : TonesLegal s :=
  ⟨of_decide_eq_false hfc0, of_decide_eq_false hfd0, Nat.lt_of_not_le (of_decide_eq_false hfdge),
    Nat.lt_of_not_le (of_decide_eq_false hnyq)⟩

theorem bandLegal_of_causes (hwindow : WindowLegal s) (h : (cfgCauses s).band = false) : BandLegal s :=
  Nat.le_of_not_lt (not_of_windowGuard hwindow h)

/-- XTRC holds no cause only with legal tones, window and band (R193). -/
theorem legal_of_heldCauses_xtrc (h : heldCauses .xtrc s = Causes.none) :
    TonesLegal s ∧ WindowLegal s ∧ BandLegal s := by
  rw [heldCauses_xtrc] at h
  have hwindow : WindowLegal s := windowIllegal_eq_false_iff.mp (congrArg Causes.wlog h)
  exact ⟨tonesLegal_of_causes (congrArg Causes.fc0 h) (congrArg Causes.fd0 h) (congrArg Causes.fdge h)
    (congrArg Causes.nyq h), hwindow, bandLegal_of_causes hwindow (congrArg Causes.band h)⟩

/-- A command that checks all nine predicates holds no cause only in a legal configuration it has room for (R193). -/
theorem legal_of_heldCauses_allNine {i : Instr} (hset : relevantSet i = allNine)
    (h : heldCauses i s = Causes.none) : AllLegal s ∧ capCondition i s = false := by
  rw [heldCauses_of_allNine hset] at h
  have hwindow : WindowLegal s := windowIllegal_eq_false_iff.mp (congrArg Causes.wlog h)
  have htones : TonesLegal s := tonesLegal_of_causes (congrArg Causes.fc0 h) (congrArg Causes.fd0 h)
    (congrArg Causes.fdge h) (congrArg Causes.nyq h)
  exact ⟨⟨htones, of_decide_eq_false (congrArg Causes.spb0 h), hwindow, of_decide_eq_false (congrArg Causes.hop0 h),
    Nat.le_of_not_lt (not_of_windowGuard hwindow (congrArg Causes.winspb h)),
    bandLegal_of_causes hwindow (congrArg Causes.band h)⟩, congrArg Causes.cap h⟩

/-- A command with a cause held raises ConfigurationError with the causes held, and only completes (R203). -/
theorem exec_raises_of_causes {i : Instr} (h : heldCauses i s ≠ Causes.none) : ∃ t, exec i s = .next t ∧
    OnlyCompletion s t ∧ t.status.cfgErr = true ∧ t.cfgcause = heldCauses i s :=
  ⟨_, exec_of_causes h, s.complete_eq_update _ _, rfl, rfl⟩

/-- Outside a legal configuration or beyond its capacity, a command that checks all nine predicates raises. -/
theorem exec_raises_of_allNine {i : Instr} (hset : relevantSet i = allNine)
    (h : ¬(AllLegal s ∧ capCondition i s = false)) : ∃ t, exec i s = .next t ∧ OnlyCompletion s t ∧
    t.status.cfgErr = true ∧ t.cfgcause = { cfgCauses s with cap := capCondition i s } :=
  heldCauses_of_allNine hset ▸ exec_raises_of_causes (mt (legal_of_heldCauses_allNine hset) h)

end Legal

/-- Settles O25: XTRC checks six predicates, the others all nine and a capacity; a cause held is raised. -/
theorem demodulatorChecks : Obligations.DemodulatorChecks := by
  refine fun s => ⟨fun hillegal => ?xtrc, fun i hi hillegal => ?analyse, fun hillegal => ?dec⟩
  case xtrc => exact heldCauses_xtrc s ▸ exec_raises_of_causes (mt legal_of_heldCauses_xtrc hillegal)
  case analyse =>
    have hcap : decide (65536 < s.slen.toNat) = false → s.slen.toNat ≤ 65536 :=
      fun h => Nat.le_of_not_lt (of_decide_eq_false h)
    have hbad : ¬(AllLegal s ∧ decide (65536 < s.slen.toNat) = false) := mt (And.imp_right hcap) hillegal
    obtain rfl | rfl : i = .anlz ∨ i = .demod := by simpa using hi
    · exact exec_raises_of_allNine rfl hbad
    · exact exec_raises_of_allNine rfl hbad
  case dec =>
    refine exec_raises_of_allNine (i := .dec) rfl (mt (And.imp_right fun h => ?_) hillegal)
    have hfits : ¬(65536 < s.slen.toNat ∨ 65536 < s.nfrm.toNat) := of_decide_eq_false h
    omega

end Sys2Proof.Machine
end

section
/-! PROOFS. When CORE moves, and the end of a pending command (spec/44_control.md R190, R191,
spec/70_reset_and_hazards.md R241; log entries 1 and 4). -/

namespace Sys2Proof.Machine

/-! ### CORE's turn -/

/-- CORE moves when its turn is listed and when no turn is left (log entry 1). -/
theorem step_eq_coreTurn {s : State} {rest : List Turn}
    (h : s.turns = .core :: rest ∨ (s.turns = [] ∧ rest = [])) : step s = coreTurn { s with turns := rest } := by
  obtain h | ⟨h, rfl⟩ := h
  · exact step_of_turns_cons h
  · have hsame : { s with turns := [] } = s := by rw [← h]
    rw [hsame]
    simp only [step, h]

theorem coreTurn_of_idle {s : State} (hidle : s.status.busy = false) : coreTurn s = .next s := by
  simp [coreTurn, hidle]

/-- Settles O19: the step is CORE's turn, which runs the latched command where one is pending. -/
theorem stepRunsLatchedCommand : Obligations.StepRunsLatchedCommand := by
  intro s rest hturns
  rw [step_eq_coreTurn hturns]
  exact ⟨fun i hbusy hcmd => coreTurn_of_cmd hbusy hcmd, fun hidle => coreTurn_of_idle hidle⟩

/-! ### The end of a pending command -/

/-- The pending command has completed, been reset, or stopped. -/
def Ended (o : Host.Outcome State Fault Refusal) : Prop :=
  (∃ t, o = .next t ∧ t.status.busy = false) ∨ ∃ f, o = .fault f

theorem ended_exec (i : Instr) (s : State) : Ended (exec i s) := by
  cases hexec : exec i s with
  | next t =>
    obtain ⟨u, _, rfl, -⟩ := exec_next hexec
    exact .inl ⟨_, rfl, rfl⟩
  | fault f => exact .inr ⟨f, rfl⟩
  | refused r =>
    rw [exec_eq_runCommand] at hexec
    exact absurd hexec runCommand_not_refused

theorem ended_coreTurn {s : State} (hbusy : s.status.busy = true) : Ended (coreTurn s) := by
  cases hword : decode s.cmdlatch with
  | cmd i =>
    rw [coreTurn_of_cmd hbusy hword]
    exact ended_exec i s
  | illegal why => exact .inl ⟨_, coreTurn_of_illegal hbusy hword, rfl⟩

/-- With BUSY = 1 CORE's turn and a reset end the command; a transaction leaves nothing but its traces (R66, R76). -/
theorem serveTurn_of_busy {s : State} (hbusy : s.status.busy = true) (h : Turn) :
    Ended (serveTurn h s) ∨ ∃ τ, serveTurn h s = .next (s.withTraces τ) := by
  cases h with
  | core => exact .inl (ended_coreTurn hbusy)
  | reset => exact .inl (.inl ⟨_, rfl, rfl⟩)
  | read addr => exact .inr ⟨_, congrArg Host.Outcome.next (busRead_eq_withTraces addr s)⟩
  | write addr d => exact .inr ⟨_, congrArg Host.Outcome.next (busWrite_eq_withTraces hbusy addr d)⟩

theorem run_one (M : Host.Core) (s : M.State) : M.run 1 s = M.step s := by
  simp only [Host.Core.run]
  cases M.step s <;> rfl

theorem run_succ_of_next {M : Host.Core} {s t : M.State} (h : M.step s = .next t) (k : Nat) :
    M.run (k + 1) s = M.run k t := by
  simp only [Host.Core.run, h]

/-- Within `n` steps the pending command has ended. -/
def EndsWithin (n : Nat) (s : State) : Prop := ∃ k, k ≤ n ∧ Ended (Host.Core.run core k s)

theorem endsWithin_of_ended_step {s : State} (h : Ended (step s)) (n : Nat) : EndsWithin (n + 1) s :=
  ⟨1, Nat.succ_pos n, (run_one core s).symm ▸ h⟩

theorem endsWithin_of_step {s t : State} {n : Nat} (hstep : step s = .next t) (h : EndsWithin n t) :
    EndsWithin (n + 1) s := by
  obtain ⟨k, hk, hended⟩ := h
  exact ⟨k + 1, Nat.succ_le_succ hk, (run_succ_of_next (M := core) hstep k).symm ▸ hended⟩

/-- Settles O59: CORE's turn and a reset end the command, and a host transaction keeps it pending with a turn less. -/
theorem pendingCommandEnds : Obligations.PendingCommandEnds := by
  intro s hbusy
  change EndsWithin (s.turns.length + 1) s
  induction hturns : s.turns generalizing s with
  | nil =>
    refine endsWithin_of_ended_step ?_ _
    rw [step_eq_coreTurn (.inr ⟨hturns, rfl⟩)]
    exact ended_coreTurn hbusy
  | cons h rest ih =>
    have hstep := step_of_turns_cons hturns
    obtain hended | ⟨τ, hserve⟩ := serveTurn_of_busy (s := { s with turns := rest }) hbusy h
    · exact endsWithin_of_ended_step (hstep ▸ hended) _
    · exact endsWithin_of_step (hstep.trans hserve) (ih _ hbusy rfl)

end Sys2Proof.Machine
end

section
/-! PROOFS. The interrupt line, and what a ConfigurationError leaves (spec/60_exceptions.md R203, R210). -/

namespace Sys2Proof.Machine

/-! ### The interrupt line -/

theorem irq_eq_true_iff {s : State} : irq s = true ↔ s.ctrl.ie = true ∧ s.status.done = true :=
  Bool.and_eq_true_iff

theorem irq_of_not_done {s : State} (h : s.status.done = false) : irq s = false := by
  rw [irq, h, Bool.and_false]

theorem irq_of_done {s : State} (h : s.status.done = true) : irq s = s.ctrl.ie := by
  rw [irq, h, Bool.and_true]

/-- CORE's turn on a pending word, a command's or an illegal one, sets DONE and keeps CTRL (R80, R196). -/
theorem coreTurn_done_ctrl {s t : State} (hbusy : s.status.busy = true) (h : coreTurn s = .next t) :
    t.status.done = true ∧ t.ctrl = s.ctrl := by
  obtain ⟨hidle, -⟩ | ⟨-, i, -, hexec⟩ | ⟨-, -, -, rfl⟩ := coreTurn_next h
  · simp [hbusy] at hidle
  · obtain ⟨-, hdone, -⟩ := completionRecordsErrors.1 i s t hexec
    obtain ⟨hctrl, -⟩ := exec_keeps_parameters hexec
    exact ⟨hdone, hctrl⟩
  · exact ⟨rfl, rfl⟩

/-- Settles O18: the acknowledgement and acceptance clear DONE; every completion sets it and keeps IE. -/
theorem interruptLine : Obligations.InterruptLine := by
  refine ⟨irq_of_not_done rfl, fun s =>
    ⟨irq_eq_true_iff, fun d hidle hbit => ?acknowledged, fun c hidle => ?accepted, fun t hbusy h => ?completed⟩⟩
  case acknowledged =>
    rw [busWrite_register_of_idle (r := .status) d (by decide) hidle]
    refine irq_of_not_done ?_
    simp [writeRegister, hbit]
  case accepted =>
    rw [busWrite_register_of_idle (r := .cmd) c (by decide) hidle]
    exact irq_of_not_done rfl
  case completed =>
    obtain ⟨hdone, hctrl⟩ := coreTurn_done_ctrl hbusy h
    rw [irq_of_done hdone, hctrl]

/-! ### ConfigurationError -/

/-- Completion after a ConfigurationError records the causes and sets CFGERR and its sticky bit (R196, R203). -/
theorem State.complete_configuration (s : State) (c : Causes) : s.complete (.configuration c) false = { s with
    status := { s.status with busy := false, done := true, cfgErr := true, incomplete := false, cmdErr := false }
    cfgcause := c
    esticky := { s.esticky with cfgErr := true } } := by
  simp only [State.complete, Raised.isConfiguration, Raised.isCommand, Raised.causes, Bool.or_true, Bool.or_false]

/-- Settles O22: a command with a cause held only completes, with the causes held. -/
theorem configurationErrorRunsNoBody : Obligations.ConfigurationErrorRunsNoBody := by
  intro i s hcauses
  rw [exec_of_causes hcauses, State.complete_configuration]

end Sys2Proof.Machine
end

section
/-! PROOFS. The reset event, and the machine since a reset until the host writes CMD (spec/70_reset_and_hazards.md R230
to R232). -/

namespace Sys2Proof.Machine

/-! ### The event -/

theorem readEntry_hardReset (s : State) (sp : Space) (k : Nat) : readEntry (hardReset s) sp k = none := by
  cases sp <;> rfl

/-- Settles O55: a reset is `State.reset` but for the turns, the word last read and the draws. -/
theorem resetEvent : Obligations.ResetEvent := fun s =>
  ⟨⟨State.reset.cmdlatch, rfl⟩, fun _ => rfl, irq_of_not_done rfl, readEntry_hardReset s,
    fun _ hturns => step_of_turns_cons hturns⟩

/-- Settles O57: the base case of the invariant. -/
theorem resetSatisfiesInv : Obligations.ResetSatisfiesInv := inv_reset

/-! ### What commands report -/

/-- STATUS, CFGCAUSE and the result registers: what the host learns of a command without reading a memory. -/
structure Report where
  status : Status
  cfgcause : Causes
  phase : Word
  toff : Word
  peak : BitVec 10
  peakmag : Word
  freq : Word
  nbits : Word
  errcnt : Word
  errpos : Word

def State.report (s : State) : Report :=
  ⟨s.status, s.cfgcause, s.phase, s.toff, s.peak, s.peakmag, s.freq, s.nbits, s.errcnt, s.errpos⟩

theorem acknowledgeDone_of_not_done {s : State} (hdone : s.status.done = false) (d : Word) :
    s.acknowledgeDone d = s := by
  rw [State.acknowledgeDone, hdone, Bool.false_and, ← hdone]

/-- Of the writes to a register only the one to CMD and, with DONE = 1, the one to STATUS touch the report. -/
theorem report_writeRegister {s : State} (hdone : s.status.done = false) (d : Word) {r : Reg} (hr : r ≠ .cmd) :
    (writeRegister d s r).report = s.report := by
  cases r with
  | cmd => exact absurd rfl hr
  | status => exact congrArg State.report (acknowledgeDone_of_not_done hdone d)
  | _ => rfl

theorem turns_writeRegister (d : Word) (s : State) (r : Reg) : (writeRegister d s r).turns = s.turns := by
  cases r <;> rfl

theorem readEntry_writeRegister (d : Word) (s : State) (r : Reg) : readEntry (writeRegister d s r) = readEntry s := by
  cases r <;> rfl

/-- A write to an entry touches neither the report nor the turns. -/
theorem report_turns_writeEntry (d : Word) (s : State) (sp : Space) (i : Nat) :
    (writeEntry d s sp i).report = s.report ∧ (writeEntry d s sp i).turns = s.turns := by
  cases sp with
  | smpmem => rw [writeEntry]; split <;> exact ⟨rfl, rfl⟩
  | txmem => rw [writeEntry]; split <;> exact ⟨rfl, rfl⟩
  | _ => exact ⟨rfl, rfl⟩

/-- A write to an entry leaves every other entry, of its own memory and of the others. -/
theorem readEntry_writeEntry_other (d : Word) (s : State) {sp sq : Space} {i k : Nat} (h : sq = sp → k ≠ i) :
    readEntry (writeEntry d s sp i) sq k = readEntry s sq k := by
  cases sp with
  | specmem =>
    cases sq with
    | specmem => exact Memory.read_write_other _ _ (h rfl)
    | _ => rfl
  | frmmem =>
    cases sq with
    | frmmem => exact Memory.read_write_other _ _ (h rfl)
    | _ => rfl
  | smpmem =>
    rw [writeEntry]
    split
    · cases sq with
      | smpmem => exact congrArg (Option.map _) (Memory.read_write_other _ _ (h rfl))
      | _ => rfl
    · rfl
  | txmem =>
    rw [writeEntry]
    split
    · cases sq with
      | txmem => exact congrArg (Option.map _) (Memory.read_write_other _ _ (h rfl))
      | _ => rfl
    · rfl
  | rxmem => rfl

/-! ### The machine since a reset -/

/-- What holds of a state since the latest reset, `ts` being the turns that were listed at it, until the host writes
CMD. -/
structure SinceReset (ts : List Turn) (t : State) : Prop where
  /-- the turns left are among those listed -/
  turns : t.turns ⊆ ts
  /-- no command has run -/
  report : t.report = State.reset.report
  /-- an entry that holds a value is one the host writes -/
  entries : ∀ sp k v, readEntry t sp k = some v → ∃ a d, Turn.write a d ∈ ts ∧ targetOf a = .entry sp k

theorem sinceReset_hardReset {ts : List Turn} {s : State} (h : s.turns ⊆ ts) : SinceReset ts (hardReset s) where
  turns := h
  report := rfl
  entries sp k v hv := by simp [readEntry_hardReset] at hv

section Preservation

variable {ts : List Turn} {s : State}

theorem SinceReset.busy_eq_false (h : SinceReset ts s) : s.status.busy = false := congrArg (·.status.busy) h.report

theorem SinceReset.done_eq_false (h : SinceReset ts s) : s.status.done = false := congrArg (·.status.done) h.report

/-- What `SinceReset` speaks of is all it depends on. -/
theorem SinceReset.of_same {t : State} (h : SinceReset ts s) (hturns : t.turns ⊆ s.turns)
    (hreport : t.report = s.report) (hentries : readEntry t = readEntry s) : SinceReset ts t where
  turns := List.Subset.trans hturns h.turns
  report := hreport.trans h.report
  entries := by rw [hentries]; exact h.entries

theorem sinceReset_busRead (h : SinceReset ts s) (addr : Addr) : SinceReset ts (busRead addr s) := by
  rw [busRead_frame]
  exact h.of_same (List.Subset.refl _) rfl rfl

/-- A write listed, to an address other than CMD's, writes a parameter or the entry it names. -/
theorem sinceReset_busWrite (h : SinceReset ts s) {addr : Addr} {d : Word} (hmem : .write addr d ∈ ts)
    (hcmd : addr ≠ 0x08) : SinceReset ts (busWrite addr d s) := by
  obtain hw | ⟨-, hw⟩ | ⟨-, ⟨r, htarget, hw⟩ | ⟨sp, i, htarget, -, hw⟩⟩ := busWrite_cases addr d s <;> rw [hw]
  · exact h.of_same (List.Subset.refl _) rfl rfl
  · exact h.of_same (List.Subset.refl _) rfl rfl
  · have hr : r ≠ .cmd := by
      rintro rfl
      exact hcmd (addr_eq_of_targetOf_register (n := 2) rfl htarget)
    exact h.of_same (turns_writeRegister d s r ▸ List.Subset.refl _) (report_writeRegister h.done_eq_false d hr)
      (readEntry_writeRegister d s r)
  · obtain ⟨hreport, hturns⟩ := report_turns_writeEntry d s sp i
    refine ⟨hturns ▸ h.turns, hreport.trans h.report, fun sq k v hv => ?_⟩
    by_cases hsame : sq = sp ∧ k = i
    · obtain ⟨rfl, rfl⟩ := hsame
      exact ⟨addr, d, hmem, htarget⟩
    · rw [readEntry_writeEntry_other d s (not_and.mp hsame)] at hv
      exact h.entries sq k v hv

/-- With no write to CMD listed every step answers and no command runs: CORE is idle, and a further reset starts
afresh. -/
theorem sinceReset_step (hcmd : ∀ d, .write 0x08 d ∉ ts) (h : SinceReset ts s) :
    ∃ t, step s = .next t ∧ SinceReset ts t := by
  cases hturns : s.turns with
  | nil =>
    rw [step_eq_coreTurn (.inr ⟨hturns, rfl⟩)]
    exact ⟨_, coreTurn_of_idle h.busy_eq_false, h.of_same (List.nil_subset _) rfl rfl⟩
  | cons turn rest =>
    obtain ⟨hmem, hrest⟩ := List.cons_subset.mp (hturns ▸ h.turns)
    have hdrop : SinceReset ts { s with turns := rest } := ⟨hrest, h.report, h.entries⟩
    rw [step_of_turns_cons hturns]
    cases turn with
    | core => exact ⟨_, coreTurn_of_idle hdrop.busy_eq_false, hdrop⟩
    | read addr => exact ⟨_, rfl, sinceReset_busRead hdrop addr⟩
    | write addr d => exact ⟨_, rfl, sinceReset_busWrite hdrop hmem fun haddr => hcmd d (haddr ▸ hmem)⟩
    | reset => exact ⟨_, rfl, sinceReset_hardReset hrest⟩

end Preservation

/-- A property under which every step answers and which every step keeps holds after any number of steps. -/
theorem run_keeps {M : Host.Core} {P : M.State → Prop} (hstep : ∀ s, P s → ∃ t, M.step s = .next t ∧ P t) (k : Nat)
    {s : M.State} (h : P s) : ∃ t, M.run k s = .next t ∧ P t := by
  induction k generalizing s with
  | zero => exact ⟨s, rfl, h⟩
  | succ k ih =>
    obtain ⟨u, hu, hPu⟩ := hstep s h
    rw [run_succ_of_next hu]
    exact ih hPu

/-- Settles O56: `SinceReset` holds at the reset and after any number of steps. -/
theorem resetAbandonsCommand : Obligations.ResetAbandonsCommand := by
  refine fun s => ⟨readEntry_hardReset s, fun hcmd k => ?_⟩
  obtain ⟨t, hrun, h⟩ := run_keeps (M := core) (fun _ => sinceReset_step hcmd) k
    (sinceReset_hardReset (List.Subset.refl s.turns))
  have hreport := h.report
  exact ⟨t, hrun, h.busy_eq_false, h.done_eq_false, congrArg (·.status.cfgErr) hreport,
    congrArg (·.status.incomplete) hreport, congrArg (·.status.cmdErr) hreport, congrArg Report.cfgcause hreport,
    congrArg Report.phase hreport, congrArg Report.toff hreport, congrArg Report.peak hreport,
    congrArg Report.peakmag hreport, congrArg Report.freq hreport, congrArg Report.nbits hreport,
    congrArg Report.errcnt hreport, congrArg Report.errpos hreport, h.entries⟩

end Sys2Proof.Machine
end
